-- ==== Sys2Proof/Word.lean ====
section
/-! DEFINITION. The machine's words and the names of what a control word can select: the nine registers
(10_state.md R20), the nine B-bus sources (30_encoding.md R83) and the ALU functions (R86). -/

namespace Sys2Proof

/-- A register's contents: a 32-bit pattern (R7, R20). -/
abbrev Word := BitVec 32

/-- One byte of memory, or the instruction-byte register MBR (R23, R28). -/
abbrev Byte := BitVec 8

/-- A control word: 40 bits (R80). -/
abbrev ControlBits := BitVec 40

/-- A control-store address, which is also what the microprogram counter holds: 9 bits (R24). -/
abbrev Slot := BitVec 9

/-- The nine 32-bit registers, in the order of R20, which is also the C-bus order of R85. -/
inductive Reg where
  | mar | mdr | pc | sp | lv | cpp | tos | opc | h
  deriving DecidableEq, Repr

/-- What may drive the ALU's B input, in the order of the B field's values 0 to 8 (R83). MBR is read
sign-extended as `mbr` and zero-extended as `mbru`; MAR and H are no B source. -/
inductive BSource where
  | mdr | pc | mbr | mbru | sp | lv | cpp | tos | opc
  deriving DecidableEq, Repr

/-- The ALU functions (R86): sixteen with a meaning, and `undefined code` for a 6-bit code that the table
does not define (R217). -/
inductive AluFn where
  | h | b | notH | notB | hPlusB | hPlusBPlus1 | hPlus1 | bPlus1 | bMinusH | bMinus1 | negH | hAndB | hOrB
  | zero | one | minusOne
  | undefined (code : BitVec 6)
  deriving DecidableEq, Repr

end Sys2Proof
end

