-- ==== Sys2Proof/Config.lean ====
section
/-! DEFINITION. What an implementation fixes (00_scope.md R5) and the one free value (44_alu_shift.md R217).
The parameters are plain data that `State` carries unchanged, so that a statement about every state is a
statement about every value of them. -/

namespace Sys2Proof

/-- WORD_BYTE_ORDER (R53): which byte of a word lies at byte offset 4k. -/
inductive ByteOrder where
  | little | big
  deriving DecidableEq, Repr

/-- FLAG_TAP (R222): N and Z are taken after the shifter or before it. -/
inductive FlagTap where
  | postShift | preShift
  deriving DecidableEq, Repr

/-- CW_HEX_ORDER (R94): the order of a control word's ten hexadecimal digits in text. -/
inductive HexOrder where
  | msbFirst | byte0First
  deriving DecidableEq, Repr

/-- The implementation parameters of R5. MEM_BYTES is held as a number of 32-bit words, so that it is a
multiple of 4 and at most 2^31 by its type (92_eei_decisions.md D9). -/
structure Params where
  memWords : Fin 536870913
  byteOrder : ByteOrder
  flagTap : FlagTap
  hexOrder : HexOrder
  deriving DecidableEq, Repr

/-- MEM_BYTES (R5). -/
def Params.memBytes (p : Params) : Nat := 4 * p.memWords.val

/-- The parameters of `State.reset`: the spec's defaults for the three that have one (log entry 10), and
the largest memory the spec allows, 2^31 bytes, for MEM_BYTES, which it leaves open.
DESIGN CHOICE (log entry 4), unsafe: a claim about a run from `State.reset` is about this size only. -/
def Params.default : Params :=
  { memWords := ⟨536870912, by decide⟩, byteOrder := .little, flagTap := .postShift, hexOrder := .msbFirst }

/-- `draw32` of R8: the n-th unconstrained 32-bit value the environment supplies. It has no body, so
nothing proved of the model depends on its values (log entry 3). -/
opaque Config.draw32 : Nat → Word

end Sys2Proof
end

