-- ==== Sys2Proof/Syntax.lean ====
section
/-! DEFINITION. The syntax of the machine: one control word's fields (`Micro`, 30_encoding.md R81) and the
instructions (`Instr`), one constructor per row of opcode_table.json.

A row of the table is ONE FIELD VALUE of the horizontal word, and a word holds a row of every field at once
(R90). So a constructor names its row and carries the whole word's fields as its operand; its own field
always has the row's value, whatever the operand says there (`Instr.control` in Decode.lean, and its meaning
in Machine/). HALT and the reserved B values carry nothing: R90 decodes nothing else of a halt word, and a
reserved word faults before any other field is used. -/

namespace Sys2Proof

/-- The C field: one bit per destination register, any subset (R85, R190). -/
structure Dest where
  mar : Bool
  mdr : Bool
  pc : Bool
  sp : Bool
  lv : Bool
  cpp : Bool
  tos : Bool
  opc : Bool
  h : Bool
  deriving DecidableEq, Repr

/-- The fields of a horizontal microinstruction (R81, R90 (3)): every word whose B field is 0 to 8. -/
structure Micro where
  bsrc : BSource
  fetch : Bool
  rd : Bool
  wr : Bool
  dest : Dest
  alu : AluFn
  sra1 : Bool
  sll8 : Bool
  jamz : Bool
  jamn : Bool
  jmpc : Bool
  addr : Slot
  deriving DecidableEq, Repr

/-- The instructions: one constructor per row of opcode_table.json, in the table's order. -/
inductive Instr where
  /-- B.MDR (R141): the B-bus source. -/
  | bMdr (m : Micro)
  /-- B.PC (R142): the B-bus source. -/
  | bPc (m : Micro)
  /-- B.MBR (R143): the B-bus source. -/
  | bMbr (m : Micro)
  /-- B.MBRU (R144): the B-bus source. -/
  | bMbru (m : Micro)
  /-- B.SP (R145): the B-bus source. -/
  | bSp (m : Micro)
  /-- B.LV (R146): the B-bus source. -/
  | bLv (m : Micro)
  /-- B.CPP (R147): the B-bus source. -/
  | bCpp (m : Micro)
  /-- B.TOS (R148): the B-bus source. -/
  | bTos (m : Micro)
  /-- B.OPC (R149): the B-bus source. -/
  | bOpc (m : Micro)
  /-- B.RESERVED_9 (R150): B = 9, reserved: the word faults. -/
  | bReserved9
  /-- B.RESERVED_10 (R150): B = 10, reserved: the word faults. -/
  | bReserved10
  /-- B.RESERVED_11 (R150): B = 11, reserved: the word faults. -/
  | bReserved11
  /-- B.RESERVED_12 (R150): B = 12, reserved: the word faults. -/
  | bReserved12
  /-- B.RESERVED_13 (R150): B = 13, reserved: the word faults. -/
  | bReserved13
  /-- B.RESERVED_14 (R150): B = 14, reserved: the word faults. -/
  | bReserved14
  /-- HALT (R246): the halt marker, B = 15; no other bit of the word matters. -/
  | halt
  /-- MEM.FETCH (R163): memory micro-operation. -/
  | memFetch (m : Micro)
  /-- MEM.RD (R160): memory micro-operation. -/
  | memRd (m : Micro)
  /-- MEM.WR (R162): memory micro-operation. -/
  | memWr (m : Micro)
  /-- MEM.RD_FETCH (R165): memory micro-operation. -/
  | memRdFetch (m : Micro)
  /-- MEM.RD_WR (R166): memory micro-operation. -/
  | memRdWr (m : Micro)
  /-- C.MAR (R181): C-bus destination. -/
  | cMar (m : Micro)
  /-- C.MDR (R182): C-bus destination. -/
  | cMdr (m : Micro)
  /-- C.PC (R183): C-bus destination. -/
  | cPc (m : Micro)
  /-- C.SP (R184): C-bus destination. -/
  | cSp (m : Micro)
  /-- C.LV (R185): C-bus destination. -/
  | cLv (m : Micro)
  /-- C.CPP (R186): C-bus destination. -/
  | cCpp (m : Micro)
  /-- C.TOS (R187): C-bus destination. -/
  | cTos (m : Micro)
  /-- C.OPC (R188): C-bus destination. -/
  | cOpc (m : Micro)
  /-- C.H (R189): C-bus destination. -/
  | cH (m : Micro)
  /-- C.NONE (R191): no C-bus destination. -/
  | cNone (m : Micro)
  /-- ALU.H (R201): the ALU function. -/
  | aluH (m : Micro)
  /-- ALU.B (R202): the ALU function. -/
  | aluB (m : Micro)
  /-- ALU.NOT_H (R203): the ALU function. -/
  | aluNotH (m : Micro)
  /-- ALU.NOT_B (R204): the ALU function. -/
  | aluNotB (m : Micro)
  /-- ALU.H_PLUS_B (R205): the ALU function. -/
  | aluHPlusB (m : Micro)
  /-- ALU.H_PLUS_B_PLUS_1 (R206): the ALU function. -/
  | aluHPlusBPlus1 (m : Micro)
  /-- ALU.H_PLUS_1 (R207): the ALU function. -/
  | aluHPlus1 (m : Micro)
  /-- ALU.B_PLUS_1 (R208): the ALU function. -/
  | aluBPlus1 (m : Micro)
  /-- ALU.B_MINUS_H (R209): the ALU function. -/
  | aluBMinusH (m : Micro)
  /-- ALU.B_MINUS_1 (R210): the ALU function. -/
  | aluBMinus1 (m : Micro)
  /-- ALU.NEG_H (R211): the ALU function. -/
  | aluNegH (m : Micro)
  /-- ALU.H_AND_B (R212): the ALU function. -/
  | aluHAndB (m : Micro)
  /-- ALU.H_OR_B (R213): the ALU function. -/
  | aluHOrB (m : Micro)
  /-- ALU.ZERO (R214): the ALU function. -/
  | aluZero (m : Micro)
  /-- ALU.ONE (R215): the ALU function. -/
  | aluOne (m : Micro)
  /-- ALU.MINUS_ONE (R216): the ALU function. -/
  | aluMinusOne (m : Micro)
  /-- ALU.UNDEFINED_0x00 (R217): an ALU code the table leaves undefined. -/
  | aluUndefined0x00 (m : Micro)
  /-- ALU.UNDEFINED_0x01 (R217): an ALU code the table leaves undefined. -/
  | aluUndefined0x01 (m : Micro)
  /-- ALU.UNDEFINED_0x02 (R217): an ALU code the table leaves undefined. -/
  | aluUndefined0x02 (m : Micro)
  /-- ALU.UNDEFINED_0x03 (R217): an ALU code the table leaves undefined. -/
  | aluUndefined0x03 (m : Micro)
  /-- ALU.UNDEFINED_0x04 (R217): an ALU code the table leaves undefined. -/
  | aluUndefined0x04 (m : Micro)
  /-- ALU.UNDEFINED_0x05 (R217): an ALU code the table leaves undefined. -/
  | aluUndefined0x05 (m : Micro)
  /-- ALU.UNDEFINED_0x06 (R217): an ALU code the table leaves undefined. -/
  | aluUndefined0x06 (m : Micro)
  /-- ALU.UNDEFINED_0x07 (R217): an ALU code the table leaves undefined. -/
  | aluUndefined0x07 (m : Micro)
  /-- ALU.UNDEFINED_0x08 (R217): an ALU code the table leaves undefined. -/
  | aluUndefined0x08 (m : Micro)
  /-- ALU.UNDEFINED_0x09 (R217): an ALU code the table leaves undefined. -/
  | aluUndefined0x09 (m : Micro)
  /-- ALU.UNDEFINED_0x0A (R217): an ALU code the table leaves undefined. -/
  | aluUndefined0x0A (m : Micro)
  /-- ALU.UNDEFINED_0x0B (R217): an ALU code the table leaves undefined. -/
  | aluUndefined0x0B (m : Micro)
  /-- ALU.UNDEFINED_0x0D (R217): an ALU code the table leaves undefined. -/
  | aluUndefined0x0D (m : Micro)
  /-- ALU.UNDEFINED_0x0E (R217): an ALU code the table leaves undefined. -/
  | aluUndefined0x0E (m : Micro)
  /-- ALU.UNDEFINED_0x0F (R217): an ALU code the table leaves undefined. -/
  | aluUndefined0x0F (m : Micro)
  /-- ALU.UNDEFINED_0x13 (R217): an ALU code the table leaves undefined. -/
  | aluUndefined0x13 (m : Micro)
  /-- ALU.UNDEFINED_0x15 (R217): an ALU code the table leaves undefined. -/
  | aluUndefined0x15 (m : Micro)
  /-- ALU.UNDEFINED_0x16 (R217): an ALU code the table leaves undefined. -/
  | aluUndefined0x16 (m : Micro)
  /-- ALU.UNDEFINED_0x17 (R217): an ALU code the table leaves undefined. -/
  | aluUndefined0x17 (m : Micro)
  /-- ALU.UNDEFINED_0x19 (R217): an ALU code the table leaves undefined. -/
  | aluUndefined0x19 (m : Micro)
  /-- ALU.UNDEFINED_0x1B (R217): an ALU code the table leaves undefined. -/
  | aluUndefined0x1B (m : Micro)
  /-- ALU.UNDEFINED_0x1D (R217): an ALU code the table leaves undefined. -/
  | aluUndefined0x1D (m : Micro)
  /-- ALU.UNDEFINED_0x1E (R217): an ALU code the table leaves undefined. -/
  | aluUndefined0x1E (m : Micro)
  /-- ALU.UNDEFINED_0x1F (R217): an ALU code the table leaves undefined. -/
  | aluUndefined0x1F (m : Micro)
  /-- ALU.UNDEFINED_0x20 (R217): an ALU code the table leaves undefined. -/
  | aluUndefined0x20 (m : Micro)
  /-- ALU.UNDEFINED_0x21 (R217): an ALU code the table leaves undefined. -/
  | aluUndefined0x21 (m : Micro)
  /-- ALU.UNDEFINED_0x22 (R217): an ALU code the table leaves undefined. -/
  | aluUndefined0x22 (m : Micro)
  /-- ALU.UNDEFINED_0x23 (R217): an ALU code the table leaves undefined. -/
  | aluUndefined0x23 (m : Micro)
  /-- ALU.UNDEFINED_0x24 (R217): an ALU code the table leaves undefined. -/
  | aluUndefined0x24 (m : Micro)
  /-- ALU.UNDEFINED_0x25 (R217): an ALU code the table leaves undefined. -/
  | aluUndefined0x25 (m : Micro)
  /-- ALU.UNDEFINED_0x26 (R217): an ALU code the table leaves undefined. -/
  | aluUndefined0x26 (m : Micro)
  /-- ALU.UNDEFINED_0x27 (R217): an ALU code the table leaves undefined. -/
  | aluUndefined0x27 (m : Micro)
  /-- ALU.UNDEFINED_0x28 (R217): an ALU code the table leaves undefined. -/
  | aluUndefined0x28 (m : Micro)
  /-- ALU.UNDEFINED_0x29 (R217): an ALU code the table leaves undefined. -/
  | aluUndefined0x29 (m : Micro)
  /-- ALU.UNDEFINED_0x2A (R217): an ALU code the table leaves undefined. -/
  | aluUndefined0x2A (m : Micro)
  /-- ALU.UNDEFINED_0x2B (R217): an ALU code the table leaves undefined. -/
  | aluUndefined0x2B (m : Micro)
  /-- ALU.UNDEFINED_0x2D (R217): an ALU code the table leaves undefined. -/
  | aluUndefined0x2D (m : Micro)
  /-- ALU.UNDEFINED_0x2E (R217): an ALU code the table leaves undefined. -/
  | aluUndefined0x2E (m : Micro)
  /-- ALU.UNDEFINED_0x2F (R217): an ALU code the table leaves undefined. -/
  | aluUndefined0x2F (m : Micro)
  /-- ALU.UNDEFINED_0x30 (R217): an ALU code the table leaves undefined. -/
  | aluUndefined0x30 (m : Micro)
  /-- ALU.UNDEFINED_0x31 (R217): an ALU code the table leaves undefined. -/
  | aluUndefined0x31 (m : Micro)
  /-- ALU.UNDEFINED_0x32 (R217): an ALU code the table leaves undefined. -/
  | aluUndefined0x32 (m : Micro)
  /-- ALU.UNDEFINED_0x33 (R217): an ALU code the table leaves undefined. -/
  | aluUndefined0x33 (m : Micro)
  /-- ALU.UNDEFINED_0x34 (R217): an ALU code the table leaves undefined. -/
  | aluUndefined0x34 (m : Micro)
  /-- ALU.UNDEFINED_0x36 (R217): an ALU code the table leaves undefined. -/
  | aluUndefined0x36 (m : Micro)
  /-- ALU.UNDEFINED_0x38 (R217): an ALU code the table leaves undefined. -/
  | aluUndefined0x38 (m : Micro)
  /-- ALU.UNDEFINED_0x3A (R217): an ALU code the table leaves undefined. -/
  | aluUndefined0x3A (m : Micro)
  /-- ALU.UNDEFINED_0x3E (R217): an ALU code the table leaves undefined. -/
  | aluUndefined0x3E (m : Micro)
  /-- SH.NONE (R221): the shifter. -/
  | shNone (m : Micro)
  /-- SH.SRA1 (R218): the shifter. -/
  | shSra1 (m : Micro)
  /-- SH.SLL8 (R219): the shifter. -/
  | shSll8 (m : Micro)
  /-- SH.SRA1_SLL8 (R220): the shifter. -/
  | shSra1Sll8 (m : Micro)
  /-- NEXT.GOTO (R241): the next-address form. -/
  | nextGoto (m : Micro)
  /-- NEXT.JAMZ (R242): the next-address form. -/
  | nextJamz (m : Micro)
  /-- NEXT.JAMN (R243): the next-address form. -/
  | nextJamn (m : Micro)
  /-- NEXT.JMPC (R244): the next-address form. -/
  | nextJmpc (m : Micro)
  /-- NEXT.JAMZ_JAMN (R245): the next-address form. -/
  | nextJamzJamn (m : Micro)
  /-- NEXT.JAMZ_JMPC (R245): the next-address form. -/
  | nextJamzJmpc (m : Micro)
  /-- NEXT.JAMN_JMPC (R245): the next-address form. -/
  | nextJamnJmpc (m : Micro)
  /-- NEXT.JAMZ_JAMN_JMPC (R245): the next-address form. -/
  | nextJamzJamnJmpc (m : Micro)
  /-- UNUSED.BITS_39_36 (R82): bits 39..36, which carry no field. -/
  | unusedBits3936 (m : Micro)
  deriving DecidableEq, Repr

end Sys2Proof
end

