-- ==== Sys2Proof/Decode.lean ====
section
/-! DEFINITION. Control words as bits: the codec (30_encoding.md R92 to R95), the field tables (R81 to R88), the
decoder (R90), total on every 40-bit word, and after it the encoder, written from the same tables. -/

namespace Sys2Proof

-- ## The codec (R92)

/-- `field(w, o, n)` of R8, which is also `get_bits(o, n)` of R92: the unsigned value of bits o+n-1..o. -/
def field (w : ControlBits) (o n : Nat) : Nat := w.toNat / 2 ^ o % 2 ^ n

/-- `get_bit(p)` (R92): bit p. -/
def getBit (w : ControlBits) (p : Nat) : Bool := w.getLsbD p

/-- `clear` (R92). -/
def clearWord : ControlBits := 0#40

/-- `set_bits(v, p, n)` (R92): bits p+n-1..p become the low n bits of v, every other bit stays. -/
def setBits (w : ControlBits) (v p n : Nat) : ControlBits :=
  let mask := BitVec.ofNat 40 (2 ^ n - 1) <<< p
  (w &&& ~~~mask) ||| ((BitVec.ofNat 40 v <<< p) &&& mask)

/-- `set_bit(p)` (R92). -/
def setBit (w : ControlBits) (p : Nat) : ControlBits := w ||| (1#40 <<< p)

/-- The five bytes of a word (R93): byte j holds bits 8j+7..8j. -/
def bytesOf (w : ControlBits) : List Byte := [0, 1, 2, 3, 4].map fun j => BitVec.ofNat 8 (field w (8 * j) 8)

/-- The word whose bytes 0 to 4 are given (R93). -/
def wordOf (b0 b1 b2 b3 b4 : Byte) : ControlBits := b4 ++ b3 ++ b2 ++ b1 ++ b0

-- ## The field tables

/-- The B field's value of a source (R83). -/
def BSource.code : BSource → Nat
  | .mdr => 0
  | .pc => 1
  | .mbr => 2
  | .mbru => 3
  | .sp => 4
  | .lv => 5
  | .cpp => 6
  | .tos => 7
  | .opc => 8

/-- The source a B field's value names; none for 9 to 15 (R83). -/
def bSourceOf : Nat → Option BSource
  | 0 => some .mdr
  | 1 => some .pc
  | 2 => some .mbr
  | 3 => some .mbru
  | 4 => some .sp
  | 5 => some .lv
  | 6 => some .cpp
  | 7 => some .tos
  | 8 => some .opc
  | _ => none

/-- The ALU field's code of a function (R86). -/
def AluFn.code : AluFn → Nat
  | .h => 0x18
  | .b => 0x14
  | .notH => 0x1A
  | .notB => 0x2C
  | .hPlusB => 0x3C
  | .hPlusBPlus1 => 0x3D
  | .hPlus1 => 0x39
  | .bPlus1 => 0x35
  | .bMinusH => 0x3F
  | .bMinus1 => 0x37
  | .negH => 0x3B
  | .hAndB => 0x0C
  | .hOrB => 0x1C
  | .zero => 0x10
  | .one => 0x11
  | .minusOne => 0x12
  | .undefined c => c.toNat

/-- The function an ALU field's code names (R86); a code outside the table is undefined (R217). -/
def aluFnOf : Nat → AluFn
  | 0x18 => .h
  | 0x14 => .b
  | 0x1A => .notH
  | 0x2C => .notB
  | 0x3C => .hPlusB
  | 0x3D => .hPlusBPlus1
  | 0x39 => .hPlus1
  | 0x35 => .bPlus1
  | 0x3F => .bMinusH
  | 0x37 => .bMinus1
  | 0x3B => .negH
  | 0x0C => .hAndB
  | 0x1C => .hOrB
  | 0x10 => .zero
  | 0x11 => .one
  | 0x12 => .minusOne
  | c => .undefined (BitVec.ofNat 6 c)

/-- The bit of the C field that names a register, counted from bit 7 of the word (R85). -/
def Reg.cBit : Reg → Nat
  | .mar => 0
  | .mdr => 1
  | .pc => 2
  | .sp => 3
  | .lv => 4
  | .cpp => 5
  | .tos => 6
  | .opc => 7
  | .h => 8

/-- The C-bus destinations of R180, in the order of their bits. -/
def cDests : List Reg := [.mar, .mdr, .pc, .sp, .lv, .cpp, .tos, .opc, .h]

/-- Whether a destination set names a register. -/
def Dest.has (d : Dest) : Reg → Bool
  | .mar => d.mar
  | .mdr => d.mdr
  | .pc => d.pc
  | .sp => d.sp
  | .lv => d.lv
  | .cpp => d.cpp
  | .tos => d.tos
  | .opc => d.opc
  | .h => d.h

/-- A destination set with one register more. -/
def Dest.add (d : Dest) : Reg → Dest
  | .mar => { d with mar := true }
  | .mdr => { d with mdr := true }
  | .pc => { d with pc := true }
  | .sp => { d with sp := true }
  | .lv => { d with lv := true }
  | .cpp => { d with cpp := true }
  | .tos => { d with tos := true }
  | .opc => { d with opc := true }
  | .h => { d with h := true }

/-- The destination set of a membership test. -/
def Dest.ofFn (f : Reg → Bool) : Dest :=
  { mar := f .mar, mdr := f .mdr, pc := f .pc, sp := f .sp, lv := f .lv, cpp := f .cpp, tos := f .tos,
    opc := f .opc, h := f .h }

/-- C = 0 (R191). -/
def Dest.empty : Dest := Dest.ofFn fun _ => false

/-- The C field's value of a destination set (R85). -/
def Dest.code (d : Dest) : Nat :=
  d.mar.toNat + 2 * d.mdr.toNat + 4 * d.pc.toNat + 8 * d.sp.toNat + 16 * d.lv.toNat + 32 * d.cpp.toNat
    + 64 * d.tos.toNat + 128 * d.opc.toNat + 256 * d.h.toNat

-- ## A row's own field value over the rest of a word

/-- B = the given source. -/
def Micro.setB (b : BSource) (m : Micro) : Micro := { m with bsrc := b }

/-- FETCH = 1. -/
def Micro.setFetch (m : Micro) : Micro := { m with fetch := true }

/-- RD = 1. -/
def Micro.setRd (m : Micro) : Micro := { m with rd := true }

/-- WR = 1. -/
def Micro.setWr (m : Micro) : Micro := { m with wr := true }

/-- The C bit of a register = 1. -/
def Micro.setDest (r : Reg) (m : Micro) : Micro := { m with dest := m.dest.add r }

/-- C = 0. -/
def Micro.clearDest (m : Micro) : Micro := { m with dest := Dest.empty }

/-- ALU = the given function. -/
def Micro.setAlu (f : AluFn) (m : Micro) : Micro := { m with alu := f }

/-- The two shift bits. -/
def Micro.setShift (sra1 sll8 : Bool) (m : Micro) : Micro := { m with sra1 := sra1, sll8 := sll8 }

/-- The three next-address bits. -/
def Micro.setNext (jamz jamn jmpc : Bool) (m : Micro) : Micro := { m with jamz := jamz, jamn := jamn, jmpc := jmpc }

/-- The fields of the all-zero word (R91), which is also the cleared word the line encoder starts from. -/
def Micro.cleared : Micro :=
  { bsrc := .mdr, fetch := false, rd := false, wr := false, dest := Dest.empty, alu := .undefined 0#6,
    sra1 := false, sll8 := false, jamz := false, jamn := false, jmpc := false, addr := 0#9 }

-- ## From bits to fields

/-- What a control word is (R90): a halt word, a word with a reserved B value, or a horizontal
microinstruction. -/
inductive Control where
  | halt
  | reserved (b : BitVec 4)
  | micro (m : Micro)
  deriving DecidableEq, Repr

/-- The fields of a horizontal word with the given B source (R90 (3)). Bits 39..36 are not looked at (R82). -/
def microOf (b : BSource) (w : ControlBits) : Micro :=
  { bsrc := b
    fetch := getBit w 4
    rd := getBit w 5
    wr := getBit w 6
    dest := Dest.ofFn fun r => getBit w (7 + r.cBit)
    alu := aluFnOf (field w 16 6)
    sra1 := getBit w 22
    sll8 := getBit w 23
    jamz := getBit w 24
    jamn := getBit w 25
    jmpc := getBit w 26
    addr := BitVec.ofNat 9 (field w 27 9) }

/-- R90's three cases. -/
def controlOf (w : ControlBits) : Control :=
  if field w 0 4 = 15 then .halt
  else match bSourceOf (field w 0 4) with
    | some b => .micro (microOf b w)
    | none => .reserved (BitVec.ofNat 4 (field w 0 4))

-- ## From fields to the row a word is filed under (log entry 1)

/-- The B row of a word. -/
def bRow (m : Micro) : Instr :=
  match m.bsrc with
  | .mdr => .bMdr m
  | .pc => .bPc m
  | .mbr => .bMbr m
  | .mbru => .bMbru m
  | .sp => .bSp m
  | .lv => .bLv m
  | .cpp => .bCpp m
  | .tos => .bTos m
  | .opc => .bOpc m

/-- The memory row of a word whose memory bits are not all 0: the most specific one. -/
def memRow (m : Micro) : Instr :=
  match m.rd, m.wr, m.fetch with
  | true, true, _ => .memRdWr m
  | true, false, true => .memRdFetch m
  | true, false, false => .memRd m
  | false, true, _ => .memWr m
  | false, false, _ => .memFetch m

/-- The C row that names a register. -/
def destRow (m : Micro) : Reg → Instr
  | .mar => .cMar m
  | .mdr => .cMdr m
  | .pc => .cPc m
  | .sp => .cSp m
  | .lv => .cLv m
  | .cpp => .cCpp m
  | .tos => .cTos m
  | .opc => .cOpc m
  | .h => .cH m

/-- The C row of a word: that of its lowest destination bit. -/
def cRow (m : Micro) : Instr :=
  match cDests.find? m.dest.has with
  | some r => destRow m r
  | none => .cNone m

/-- The row of an undefined ALU code. -/
def undefinedRow (m : Micro) : Nat → Instr
  | 0x01 => .aluUndefined0x01 m
  | 0x02 => .aluUndefined0x02 m
  | 0x03 => .aluUndefined0x03 m
  | 0x04 => .aluUndefined0x04 m
  | 0x05 => .aluUndefined0x05 m
  | 0x06 => .aluUndefined0x06 m
  | 0x07 => .aluUndefined0x07 m
  | 0x08 => .aluUndefined0x08 m
  | 0x09 => .aluUndefined0x09 m
  | 0x0A => .aluUndefined0x0A m
  | 0x0B => .aluUndefined0x0B m
  | 0x0D => .aluUndefined0x0D m
  | 0x0E => .aluUndefined0x0E m
  | 0x0F => .aluUndefined0x0F m
  | 0x13 => .aluUndefined0x13 m
  | 0x15 => .aluUndefined0x15 m
  | 0x16 => .aluUndefined0x16 m
  | 0x17 => .aluUndefined0x17 m
  | 0x19 => .aluUndefined0x19 m
  | 0x1B => .aluUndefined0x1B m
  | 0x1D => .aluUndefined0x1D m
  | 0x1E => .aluUndefined0x1E m
  | 0x1F => .aluUndefined0x1F m
  | 0x20 => .aluUndefined0x20 m
  | 0x21 => .aluUndefined0x21 m
  | 0x22 => .aluUndefined0x22 m
  | 0x23 => .aluUndefined0x23 m
  | 0x24 => .aluUndefined0x24 m
  | 0x25 => .aluUndefined0x25 m
  | 0x26 => .aluUndefined0x26 m
  | 0x27 => .aluUndefined0x27 m
  | 0x28 => .aluUndefined0x28 m
  | 0x29 => .aluUndefined0x29 m
  | 0x2A => .aluUndefined0x2A m
  | 0x2B => .aluUndefined0x2B m
  | 0x2D => .aluUndefined0x2D m
  | 0x2E => .aluUndefined0x2E m
  | 0x2F => .aluUndefined0x2F m
  | 0x30 => .aluUndefined0x30 m
  | 0x31 => .aluUndefined0x31 m
  | 0x32 => .aluUndefined0x32 m
  | 0x33 => .aluUndefined0x33 m
  | 0x34 => .aluUndefined0x34 m
  | 0x36 => .aluUndefined0x36 m
  | 0x38 => .aluUndefined0x38 m
  | 0x3A => .aluUndefined0x3A m
  | 0x3E => .aluUndefined0x3E m
  | _ => .aluUndefined0x00 m

/-- The ALU row of a word. -/
def aluRow (m : Micro) : Instr :=
  match m.alu with
  | .h => .aluH m
  | .b => .aluB m
  | .notH => .aluNotH m
  | .notB => .aluNotB m
  | .hPlusB => .aluHPlusB m
  | .hPlusBPlus1 => .aluHPlusBPlus1 m
  | .hPlus1 => .aluHPlus1 m
  | .bPlus1 => .aluBPlus1 m
  | .bMinusH => .aluBMinusH m
  | .bMinus1 => .aluBMinus1 m
  | .negH => .aluNegH m
  | .hAndB => .aluHAndB m
  | .hOrB => .aluHOrB m
  | .zero => .aluZero m
  | .one => .aluOne m
  | .minusOne => .aluMinusOne m
  | .undefined c => undefinedRow m c.toNat

/-- The shift row of a word. -/
def shiftRow (m : Micro) : Instr :=
  match m.sra1, m.sll8 with
  | false, false => .shNone m
  | true, false => .shSra1 m
  | false, true => .shSll8 m
  | true, true => .shSra1Sll8 m

/-- The next-address row of a word. -/
def nextRow (m : Micro) : Instr :=
  match m.jamz, m.jamn, m.jmpc with
  | false, false, false => .nextGoto m
  | true, false, false => .nextJamz m
  | false, true, false => .nextJamn m
  | false, false, true => .nextJmpc m
  | true, true, false => .nextJamzJamn m
  | true, false, true => .nextJamzJmpc m
  | false, true, true => .nextJamnJmpc m
  | true, true, true => .nextJamzJamnJmpc m

/-- The row a horizontal word is filed under when no field stands alone at its cleared value: the first of
memory, C, ALU, shift, next address and B that is away from the cleared word's value; with none away, NEXT.GOTO,
or for the all-zero word the row that carries no field. -/
def firstAwayRow (m : Micro) : Instr :=
  if m.rd || m.wr || m.fetch then memRow m
  else if m.dest != Dest.empty then cRow m
  else if m.alu != .undefined 0#6 then aluRow m
  else if m.sra1 || m.sll8 then shiftRow m
  else if m.jamz || m.jamn || m.jmpc then nextRow m
  else if m.bsrc != .mdr then bRow m
  else if m.addr != 0#9 then .nextGoto m
  else .unusedBits3936 m

/-- The row a horizontal word is filed under. A word belongs to a row of every field at once, and
`Obligations.EveryReadingOfAWordMeansTheSame` says they all mean the same cycle, so this picks a name and no
meaning.
DESIGN CHOICE (log entry 1), safe. The field that stands out: if exactly one of B, C, ALU, shift and next address is
at its cleared value, that field's row; otherwise `firstAwayRow`. -/
def microRow (m : Micro) : Instr :=
  match m.bsrc != .mdr, m.dest != Dest.empty, m.alu != .undefined 0#6, m.sra1 || m.sll8, m.jamz || m.jamn || m.jmpc with
  | false, true, true, true, true => bRow m
  | true, false, true, true, true => cRow m
  | true, true, false, true, true => aluRow m
  | true, true, true, false, true => shiftRow m
  | true, true, true, true, false => nextRow m
  | _, _, _, _, _ => firstAwayRow m

/-- The row of a reserved B value; `Control.reserved` holds 9 to 14 whenever it comes from a word. -/
def reservedRow : Nat → Instr
  | 9 => .bReserved9
  | 10 => .bReserved10
  | 11 => .bReserved11
  | 12 => .bReserved12
  | 13 => .bReserved13
  | _ => .bReserved14

/-- The row any word is filed under. -/
def rowOf : Control → Instr
  | .halt => .halt
  | .reserved b => reservedRow b.toNat
  | .micro m => microRow m

/-- The decoder (R90): every 40-bit word is an instruction. -/
def decode (w : ControlBits) : Instr := rowOf (controlOf w)

/-- Every row of the table that a horizontal word belongs to, each with the word's fields; a halt or
reserved word has its one row. -/
def readings (w : ControlBits) : List Instr :=
  match controlOf w with
  | .halt => [.halt]
  | .reserved b => [reservedRow b.toNat]
  | .micro m =>
    [bRow m]
      ++ (if m.fetch then [.memFetch m] else []) ++ (if m.rd then [.memRd m] else [])
      ++ (if m.wr then [.memWr m] else []) ++ (if m.rd && m.fetch then [.memRdFetch m] else [])
      ++ (if m.rd && m.wr then [.memRdWr m] else [])
      ++ (if m.dest = Dest.empty then [.cNone m] else (cDests.filter m.dest.has).map (destRow m))
      ++ [aluRow m, shiftRow m, nextRow m, .unusedBits3936 m]

/-- Why bytes are no control word. -/
inductive DecodeError where
  /-- A control word is exactly five bytes (R80, R93); safe: nothing is decoded. -/
  | notFiveBytes (count : Nat)
  deriving DecidableEq, Repr

/-- The decoder on stored bytes (R93), total: five bytes are one word, any other number is refused by name. -/
def decodeBytes : List Byte → Except DecodeError Instr
  | [b0, b1, b2, b3, b4] => .ok (decode (wordOf b0 b1 b2 b3 b4))
  | bs => .error (.notFiveBytes bs.length)

/-- The instruction the decoder reads from bits numbered as opcode_table.json numbers them; bits at nbits and
above are 0. -/
def decodeTableWord (nbits w : Nat) : Option Instr :=
  match decodeBytes (bytesOf (BitVec.ofNat 40 (w % 2 ^ nbits))) with
  | .ok i => some i
  | .error _ => none

-- ## The encoder

/-- What an instruction's word is: its row's own field value over its operand. -/
def Instr.control (i : Instr) : Control :=
  match i with
  | .bMdr m => .micro (m.setB .mdr)
  | .bPc m => .micro (m.setB .pc)
  | .bMbr m => .micro (m.setB .mbr)
  | .bMbru m => .micro (m.setB .mbru)
  | .bSp m => .micro (m.setB .sp)
  | .bLv m => .micro (m.setB .lv)
  | .bCpp m => .micro (m.setB .cpp)
  | .bTos m => .micro (m.setB .tos)
  | .bOpc m => .micro (m.setB .opc)
  | .bReserved9 => .reserved 9#4
  | .bReserved10 => .reserved 10#4
  | .bReserved11 => .reserved 11#4
  | .bReserved12 => .reserved 12#4
  | .bReserved13 => .reserved 13#4
  | .bReserved14 => .reserved 14#4
  | .halt => .halt
  | .memFetch m => .micro m.setFetch
  | .memRd m => .micro m.setRd
  | .memWr m => .micro m.setWr
  | .memRdFetch m => .micro m.setRd.setFetch
  | .memRdWr m => .micro m.setRd.setWr
  | .cMar m => .micro (m.setDest .mar)
  | .cMdr m => .micro (m.setDest .mdr)
  | .cPc m => .micro (m.setDest .pc)
  | .cSp m => .micro (m.setDest .sp)
  | .cLv m => .micro (m.setDest .lv)
  | .cCpp m => .micro (m.setDest .cpp)
  | .cTos m => .micro (m.setDest .tos)
  | .cOpc m => .micro (m.setDest .opc)
  | .cH m => .micro (m.setDest .h)
  | .cNone m => .micro m.clearDest
  | .aluH m => .micro (m.setAlu .h)
  | .aluB m => .micro (m.setAlu .b)
  | .aluNotH m => .micro (m.setAlu .notH)
  | .aluNotB m => .micro (m.setAlu .notB)
  | .aluHPlusB m => .micro (m.setAlu .hPlusB)
  | .aluHPlusBPlus1 m => .micro (m.setAlu .hPlusBPlus1)
  | .aluHPlus1 m => .micro (m.setAlu .hPlus1)
  | .aluBPlus1 m => .micro (m.setAlu .bPlus1)
  | .aluBMinusH m => .micro (m.setAlu .bMinusH)
  | .aluBMinus1 m => .micro (m.setAlu .bMinus1)
  | .aluNegH m => .micro (m.setAlu .negH)
  | .aluHAndB m => .micro (m.setAlu .hAndB)
  | .aluHOrB m => .micro (m.setAlu .hOrB)
  | .aluZero m => .micro (m.setAlu .zero)
  | .aluOne m => .micro (m.setAlu .one)
  | .aluMinusOne m => .micro (m.setAlu .minusOne)
  | .aluUndefined0x00 m => .micro (m.setAlu (.undefined 0x00#6))
  | .aluUndefined0x01 m => .micro (m.setAlu (.undefined 0x01#6))
  | .aluUndefined0x02 m => .micro (m.setAlu (.undefined 0x02#6))
  | .aluUndefined0x03 m => .micro (m.setAlu (.undefined 0x03#6))
  | .aluUndefined0x04 m => .micro (m.setAlu (.undefined 0x04#6))
  | .aluUndefined0x05 m => .micro (m.setAlu (.undefined 0x05#6))
  | .aluUndefined0x06 m => .micro (m.setAlu (.undefined 0x06#6))
  | .aluUndefined0x07 m => .micro (m.setAlu (.undefined 0x07#6))
  | .aluUndefined0x08 m => .micro (m.setAlu (.undefined 0x08#6))
  | .aluUndefined0x09 m => .micro (m.setAlu (.undefined 0x09#6))
  | .aluUndefined0x0A m => .micro (m.setAlu (.undefined 0x0A#6))
  | .aluUndefined0x0B m => .micro (m.setAlu (.undefined 0x0B#6))
  | .aluUndefined0x0D m => .micro (m.setAlu (.undefined 0x0D#6))
  | .aluUndefined0x0E m => .micro (m.setAlu (.undefined 0x0E#6))
  | .aluUndefined0x0F m => .micro (m.setAlu (.undefined 0x0F#6))
  | .aluUndefined0x13 m => .micro (m.setAlu (.undefined 0x13#6))
  | .aluUndefined0x15 m => .micro (m.setAlu (.undefined 0x15#6))
  | .aluUndefined0x16 m => .micro (m.setAlu (.undefined 0x16#6))
  | .aluUndefined0x17 m => .micro (m.setAlu (.undefined 0x17#6))
  | .aluUndefined0x19 m => .micro (m.setAlu (.undefined 0x19#6))
  | .aluUndefined0x1B m => .micro (m.setAlu (.undefined 0x1B#6))
  | .aluUndefined0x1D m => .micro (m.setAlu (.undefined 0x1D#6))
  | .aluUndefined0x1E m => .micro (m.setAlu (.undefined 0x1E#6))
  | .aluUndefined0x1F m => .micro (m.setAlu (.undefined 0x1F#6))
  | .aluUndefined0x20 m => .micro (m.setAlu (.undefined 0x20#6))
  | .aluUndefined0x21 m => .micro (m.setAlu (.undefined 0x21#6))
  | .aluUndefined0x22 m => .micro (m.setAlu (.undefined 0x22#6))
  | .aluUndefined0x23 m => .micro (m.setAlu (.undefined 0x23#6))
  | .aluUndefined0x24 m => .micro (m.setAlu (.undefined 0x24#6))
  | .aluUndefined0x25 m => .micro (m.setAlu (.undefined 0x25#6))
  | .aluUndefined0x26 m => .micro (m.setAlu (.undefined 0x26#6))
  | .aluUndefined0x27 m => .micro (m.setAlu (.undefined 0x27#6))
  | .aluUndefined0x28 m => .micro (m.setAlu (.undefined 0x28#6))
  | .aluUndefined0x29 m => .micro (m.setAlu (.undefined 0x29#6))
  | .aluUndefined0x2A m => .micro (m.setAlu (.undefined 0x2A#6))
  | .aluUndefined0x2B m => .micro (m.setAlu (.undefined 0x2B#6))
  | .aluUndefined0x2D m => .micro (m.setAlu (.undefined 0x2D#6))
  | .aluUndefined0x2E m => .micro (m.setAlu (.undefined 0x2E#6))
  | .aluUndefined0x2F m => .micro (m.setAlu (.undefined 0x2F#6))
  | .aluUndefined0x30 m => .micro (m.setAlu (.undefined 0x30#6))
  | .aluUndefined0x31 m => .micro (m.setAlu (.undefined 0x31#6))
  | .aluUndefined0x32 m => .micro (m.setAlu (.undefined 0x32#6))
  | .aluUndefined0x33 m => .micro (m.setAlu (.undefined 0x33#6))
  | .aluUndefined0x34 m => .micro (m.setAlu (.undefined 0x34#6))
  | .aluUndefined0x36 m => .micro (m.setAlu (.undefined 0x36#6))
  | .aluUndefined0x38 m => .micro (m.setAlu (.undefined 0x38#6))
  | .aluUndefined0x3A m => .micro (m.setAlu (.undefined 0x3A#6))
  | .aluUndefined0x3E m => .micro (m.setAlu (.undefined 0x3E#6))
  | .shNone m => .micro (m.setShift false false)
  | .shSra1 m => .micro (m.setShift true false)
  | .shSll8 m => .micro (m.setShift false true)
  | .shSra1Sll8 m => .micro (m.setShift true true)
  | .nextGoto m => .micro (m.setNext false false false)
  | .nextJamz m => .micro (m.setNext true false false)
  | .nextJamn m => .micro (m.setNext false true false)
  | .nextJmpc m => .micro (m.setNext false false true)
  | .nextJamzJamn m => .micro (m.setNext true true false)
  | .nextJamzJmpc m => .micro (m.setNext true false true)
  | .nextJamnJmpc m => .micro (m.setNext false true true)
  | .nextJamzJamnJmpc m => .micro (m.setNext true true true)
  | .unusedBits3936 m => .micro m

/-- The bits of a horizontal word (R81); bits 39..36 are written 0 (R82). -/
def encodeMicro (m : Micro) : ControlBits :=
  BitVec.ofNat 40 (m.bsrc.code + 2 ^ 4 * m.fetch.toNat + 2 ^ 5 * m.rd.toNat + 2 ^ 6 * m.wr.toNat
    + 2 ^ 7 * m.dest.code + 2 ^ 16 * m.alu.code + 2 ^ 22 * m.sra1.toNat + 2 ^ 23 * m.sll8.toNat
    + 2 ^ 24 * m.jamz.toNat + 2 ^ 25 * m.jamn.toNat + 2 ^ 26 * m.jmpc.toNat + 2 ^ 27 * m.addr.toNat)

/-- The bits of a word: a halt word is B = 15 and nothing else (R267), a reserved one its B value. -/
def encodeControl : Control → ControlBits
  | .halt => 0xF#40
  | .reserved b => BitVec.ofNat 40 b.toNat
  | .micro m => encodeMicro m

/-- The encoder: the word of an instruction. -/
def encode (i : Instr) : ControlBits := encodeControl i.control

-- ## The text form (R94)

/-- Text is a list of characters. -/
abbrev Text := List Char

/-- The character of a hexadecimal digit, lower case. -/
def hexDigit (n : Nat) : Char := ['0', '1', '2', '3', '4', '5', '6', '7', '8', '9', 'a', 'b', 'c', 'd', 'e', 'f'].getD n '0'

/-- The value of a hexadecimal digit, either case; none for another character. -/
def hexValue (c : Char) : Option Nat :=
  if '0' ≤ c ∧ c ≤ '9' then some (c.toNat - 48)
  else if 'a' ≤ c ∧ c ≤ 'f' then some (c.toNat - 87)
  else if 'A' ≤ c ∧ c ≤ 'F' then some (c.toNat - 55)
  else none

/-- n written with the given number of hexadecimal digits, most significant first. -/
def hexText : Nat → Nat → Text
  | 0, _ => []
  | k + 1, n => hexDigit (n / 16 ^ k % 16) :: hexText k n

/-- The number that digits spell, most significant first; none if some character is no digit. -/
def parseHex (t : Text) : Option Nat :=
  t.foldl (fun acc c => acc.bind fun n => (hexValue c).map fun d => 16 * n + d) (some 0)

/-- The word with its five bytes in the other order; swapping twice changes nothing. -/
def swapBytes (w : ControlBits) : ControlBits :=
  wordOf (BitVec.ofNat 8 (field w 32 8)) (BitVec.ofNat 8 (field w 24 8)) (BitVec.ofNat 8 (field w 16 8))
    (BitVec.ofNat 8 (field w 8 8)) (BitVec.ofNat 8 (field w 0 8))

/-- `encode_as_text` (R94): the ten digits of the word as a number, or those of its bytes 0 to 4 in turn. -/
def encodeText (order : HexOrder) (w : ControlBits) : Text :=
  match order with
  | .msbFirst => hexText 10 w.toNat
  | .byte0First => hexText 10 (swapBytes w).toNat

/-- `decode_from_text` (R94): exactly ten digits, either case; anything else is refused. -/
def decodeText (order : HexOrder) (t : Text) : Option ControlBits :=
  if t.length = 10 then
    (parseHex t).map fun n =>
      match order with
      | .msbFirst => BitVec.ofNat 40 n
      | .byte0First => swapBytes (BitVec.ofNat 40 n)
  else none

end Sys2Proof
end

