-- ==== Sys2Proof/Machine/State.lean ====
section
/-! DEFINITION. Everything the spec gives the machine (10_state.md), as plain data, the reasons it can stop, and its
construction, which is its reset (70_reset_and_hazards.md R430). -/

namespace Sys2Proof.Machine

/-- Why the machine stops with a fault. -/
inductive Fault where
  /-- Raised by a word whose B field is 9 to 14, and answered by every later step of the machine it stopped
  (R150, R401); safe: nothing is written. The record is the word's address and its B value. -/
  | invalidBSelect (mpc : Slot) (b : BitVec 4)
  deriving DecidableEq, Repr

/-- Why an instruction has no meaning in the model. -/
inductive Refusal where
  /-- Raised by an arm of `exec` whose instruction has no meaning yet; safe. No arm raises it now. -/
  | notModelled (mnemonic : String)
  deriving DecidableEq, Repr

/-- The run status of R30: model-only state of the spec. -/
inductive RunStatus where
  | running
  | halted
  | faulted (f : Fault)
  deriving DecidableEq, Repr

/-- The register file (R20). -/
structure Regs where
  mar : Word
  mdr : Word
  pc : Word
  sp : Word
  lv : Word
  cpp : Word
  tos : Word
  opc : Word
  h : Word
  deriving DecidableEq, Repr

/-- The memory's bytes, sparse: (address, byte) pairs. `Memory.read` says what an unlisted address reads as, and
`Store.wf` (Ops.lean) is the canonical form. -/
abbrev Memory := List Host.Cell

/-- The control store, sparse: (slot, word) pairs; a slot not listed is empty and holds the all-zero word (R25). -/
abbrev ControlStore := List (Nat × ControlBits)

/-- The state of the machine. -/
structure State where
  /-- The nine registers (R20). -/
  regs : Regs
  /-- The instruction-byte register (R23). -/
  mbr : Byte
  /-- The microprogram counter (R24). -/
  mpc : Slot
  /-- The control store (R25). -/
  cs : ControlStore
  /-- The memory (R28). -/
  mem : Memory
  /-- A read was initiated last cycle and has not landed (R26). -/
  pendRead : Bool
  /-- A fetch was initiated last cycle and has not landed (R26). -/
  pendFetch : Bool
  /-- The run status (R30). -/
  status : RunStatus
  /-- OOR_SEEN: some access was out of range (R30, R65). -/
  oorSeen : Bool
  /-- How many values of `Config.draw32` have been used: the model's own field (log entry 3). -/
  draws : Nat
  /-- The implementation parameters (R5); no step changes them. -/
  params : Params
  deriving DecidableEq, Repr

/-- What a control-store image holds (R317, R318): the entry address and the words of the 512 slots. -/
structure ControlImage where
  entry : Slot
  store : ControlStore
  deriving DecidableEq, Repr

/-- Construction (R430), the block's only reset: from an image, INIT_REGS with MBR's value, and INIT_MEM. -/
def State.construct (p : Params) (img : ControlImage) (initRegs : Regs) (initMbr : Byte) (initMem : Memory) : State :=
  { regs := initRegs, mbr := initMbr, mpc := img.entry, cs := img.store, mem := initMem, pendRead := false,
    pendFetch := false, status := .running, oorSeen := false, draws := 0, params := p }

/-- INIT_REGS of `State.reset`. DESIGN CHOICE (log entry 5), unsafe: R31 leaves the nine values open. -/
def Regs.zero : Regs :=
  { mar := 0#32, mdr := 0#32, pc := 0#32, sp := 0#32, lv := 0#32, cpp := 0#32, tos := 0#32, opc := 0#32, h := 0#32 }

/-- The machine right after construction with no image placed in it: every slot empty and ENTRY 0 (log entry 7), the
registers and MBR 0 (log entry 5), no memory byte listed (log entry 6), and the parameters of `Params.default`. -/
def State.reset : State :=
  State.construct Params.default { entry := 0#9, store := [] } Regs.zero 0#8 []

end Sys2Proof.Machine
end

