-- ==== Sys2Proof/Machine/Ops.lean ====
section
/-! DEFINITION. The named operations on the machine's stores and registers: sparse stores, the register file, the
memory primitives (20_memory.md R53 to R56), the landings (42_memory_ops.md R161, R164), the fetch of a control word,
and the one fault (60_exceptions.md R401). The block has no trap entry and no return (R405): the fault is the only
event, and nothing returns from it. -/

namespace Sys2Proof.Machine

-- ## Sparse stores of w-bit values: an index that is not listed holds 0

/-- What a store holds at an index. For the control store this is R25's empty slot; for the memory an unlisted byte
of the buffer reads 0: DESIGN CHOICE (log entry 6), unsafe, since INIT_MEM is open. -/
def Store.read {w : Nat} : List (Nat × BitVec w) → Nat → BitVec w
  | [], _ => 0#w
  | (k, v) :: rest, a => if a = k then v else Store.read rest a

/-- A store with one value changed, in the canonical form of `Store.wf`. -/
def Store.write {w : Nat} : List (Nat × BitVec w) → Nat → BitVec w → List (Nat × BitVec w)
  | [], a, v => if v = 0#w then [] else [(a, v)]
  | (k, u) :: rest, a, v =>
    if a < k then (if v = 0#w then (k, u) :: rest else (a, v) :: (k, u) :: rest)
    else if a = k then (if v = 0#w then rest else (a, v) :: rest)
    else (k, u) :: Store.write rest a v

/-- Every index is at least lo, indexes strictly rise, and no listed value is 0. -/
def Store.wfFrom {w : Nat} : Nat → List (Nat × BitVec w) → Bool
  | _, [] => true
  | lo, (k, v) :: rest => decide (lo ≤ k) && decide (v ≠ 0#w) && Store.wfFrom (k + 1) rest

/-- The canonical form: equal stores are equal lists. -/
def Store.wf {w : Nat} (s : List (Nat × BitVec w)) : Bool := Store.wfFrom 0 s

/-- Every listed index is below the bound. -/
def Store.below {w : Nat} (hi : Nat) (s : List (Nat × BitVec w)) : Bool := s.all fun c => decide (c.1 < hi)

/-- The memory's canonical form. -/
def Memory.wf (m : Memory) : Bool := Store.wf m

-- ## Registers

/-- `REG[r]` (R8). -/
def Regs.get (g : Regs) : Reg → Word
  | .mar => g.mar
  | .mdr => g.mdr
  | .pc => g.pc
  | .sp => g.sp
  | .lv => g.lv
  | .cpp => g.cpp
  | .tos => g.tos
  | .opc => g.opc
  | .h => g.h

/-- `REG[r] <- v` (R8). -/
def Regs.set (g : Regs) (r : Reg) (v : Word) : Regs :=
  match r with
  | .mar => { g with mar := v }
  | .mdr => { g with mdr := v }
  | .pc => { g with pc := v }
  | .sp => { g with sp := v }
  | .lv => { g with lv := v }
  | .cpp => { g with cpp := v }
  | .tos => { g with tos := v }
  | .opc => { g with opc := v }
  | .h => { g with h := v }

/-- `REG[r]` of a state. -/
def State.reg (s : State) (r : Reg) : Word := s.regs.get r

/-- `REG[r] <- v` on a state. -/
def State.setReg (s : State) (r : Reg) (v : Word) : State := { s with regs := s.regs.set r v }

-- ## The memory primitives

/-- Byte a of the buffer. -/
def State.byteAt (s : State) (a : Nat) : Byte := Store.read s.mem a

/-- Word k lies in the buffer (R54), computed on unbounded integers. -/
def State.wordInRange (s : State) (k : Word) : Bool := decide (4 * k.toNat + 4 ≤ s.params.memBytes)

/-- Byte a lies in the buffer (R56). -/
def State.byteInRange (s : State) (a : Word) : Bool := decide (a.toNat < s.params.memBytes)

/-- The word with the given bytes at offsets 4k, 4k+1, 4k+2, 4k+3 (R53). -/
def joinBytes (order : ByteOrder) (b0 b1 b2 b3 : Byte) : Word :=
  match order with
  | .little => b3 ++ b2 ++ b1 ++ b0
  | .big => b0 ++ b1 ++ b2 ++ b3

/-- The byte of a word that lies at offset 4k + j (R53). -/
def splitByte (order : ByteOrder) (v : Word) (j : Nat) : Byte :=
  match order with
  | .little => v.extractLsb' (8 * j) 8
  | .big => v.extractLsb' (8 * (3 - j)) 8

/-- `WordOf(k)` of R53. -/
def State.wordOfBytes (s : State) (k : Nat) : Word :=
  joinBytes s.params.byteOrder (s.byteAt (4 * k)) (s.byteAt (4 * k + 1)) (s.byteAt (4 * k + 2)) (s.byteAt (4 * k + 3))

/-- The value of `MemReadWord(k)` (R54). -/
def State.memReadWord (s : State) (k : Word) : Word := if s.wordInRange k then s.wordOfBytes k.toNat else 0#32

/-- The value of `MemReadByte(a)` (R56). -/
def State.memReadByte (s : State) (a : Word) : Byte := if s.byteInRange a then s.byteAt a.toNat else 0#8

/-- The buffer with word k replaced (R53, R55). -/
def Memory.writeWord (order : ByteOrder) (m : Memory) (k : Nat) (v : Word) : Memory :=
  Store.write (Store.write (Store.write (Store.write m (4 * k) (splitByte order v 0)) (4 * k + 1) (splitByte order v 1))
    (4 * k + 2) (splitByte order v 2)) (4 * k + 3) (splitByte order v 3)

/-- `MemWriteWord(k, v)` (R55): dropped when out of range, which sets OOR_SEEN (R65). -/
def State.memWriteWord (s : State) (k v : Word) : State :=
  { s with
    mem := if s.wordInRange k then Memory.writeWord s.params.byteOrder s.mem k.toNat v else s.mem
    oorSeen := s.oorSeen || !s.wordInRange k }

-- ## The landings (step 5)

/-- A pending read lands in MDR (R161); out of range it lands 0 and sets OOR_SEEN (R54, R65). -/
def State.landRead (s : State) : State :=
  { s with
    regs := if s.pendRead then s.regs.set .mdr (s.memReadWord (s.reg .mar)) else s.regs
    oorSeen := s.oorSeen || (s.pendRead && !s.wordInRange (s.reg .mar))
    pendRead := false }

/-- A pending fetch lands in MBR (R164); out of range it lands 0 and sets OOR_SEEN (R56, R65). -/
def State.landFetch (s : State) : State :=
  { s with
    mbr := if s.pendFetch then s.memReadByte (s.reg .pc) else s.mbr
    oorSeen := s.oorSeen || (s.pendFetch && !s.byteInRange (s.reg .pc))
    pendFetch := false }

-- ## The control word

/-- `CS[a]` (R8): the word of a slot. -/
def State.csWord (s : State) (a : Slot) : ControlBits := Store.read s.cs a.toNat

/-- The word about to execute, `CS[MPC]` (R120). -/
def State.currentWord (s : State) : ControlBits := s.csWord s.mpc

/-- The active predicate (R121): the word about to execute is no halt word. -/
def State.active (s : State) : Bool := decide (field s.currentWord 0 4 ≠ 15)

/-- The state with a word in the slot the next step reads, and the run status running, since only a running machine
executes a word. -/
def State.placeWord (s : State) (w : ControlBits) : State :=
  { s with cs := Store.write s.cs s.mpc.toNat w, status := .running }

-- ## The fault

/-- Raising a fault (R401): the machine stops before the cycle writes anything (R125). -/
def raiseFault (f : Fault) : Host.Outcome State Fault Refusal := .fault f

/-- The state a fault leaves (R401, R405): the state before the faulting word, with the run status faulted and
the record in it. -/
def State.afterFault (s : State) (f : Fault) : State := { s with status := .faulted f }

end Sys2Proof.Machine
end

