-- ==== Sys2Proof/Machine/Operands.lean ====
section
/-! DEFINITION. The ALU's two inputs (41_bbus.md R140, R152), read in step 2, before any landing. -/

namespace Sys2Proof.Machine

/-- `sext_32` (R7): bit 7 is copied into bits 31..8. -/
def sext32 (b : Byte) : Word := b.signExtend 32

/-- `zext_32` (R7): bits 31..8 are 0. -/
def zext32 (b : Byte) : Word := b.setWidth 32

/-- The A input, always H (R152). -/
def State.aInput (s : State) : Word := s.reg .h

/-- `BSource` of R140: the B input, by the source the word selects (R141 to R149). -/
def State.bInput (s : State) : BSource → Word
  | .mdr => s.reg .mdr
  | .pc => s.reg .pc
  | .mbr => sext32 s.mbr
  | .mbru => zext32 s.mbr
  | .sp => s.reg .sp
  | .lv => s.reg .lv
  | .cpp => s.reg .cpp
  | .tos => s.reg .tos
  | .opc => s.reg .opc

end Sys2Proof.Machine
end

