-- ==== Sys2Proof/Machine/Alu.lean ====
section
/-! DEFINITION. The ALU (44_alu_shift.md R200 to R217) and the shifter (R218 to R221): steps 3 and 4. -/

namespace Sys2Proof.Machine

/-- The ALU's table (R200). `free` is the value an undefined code results in (R217). -/
def aluFunction (fn : AluFn) (a b free : Word) : Word :=
  match fn with
  | .h => a
  | .b => b
  | .notH => ~~~a
  | .notB => ~~~b
  | .hPlusB => a + b
  | .hPlusBPlus1 => a + b + 1#32
  | .hPlus1 => a + 1#32
  | .bPlus1 => b + 1#32
  | .bMinusH => b - a
  | .bMinus1 => b - 1#32
  | .negH => -a
  | .hAndB => a &&& b
  | .hOrB => a ||| b
  | .zero => 0#32
  | .one => 1#32
  | .minusOne => 0xFFFFFFFF#32
  | .undefined _ => free

/-- Whether a function's result is a draw (R217). -/
def usesDraw : AluFn → Bool
  | .undefined _ => true
  | _ => false

/-- SRA1 (R218): `(f >> 1) | (f & 0x80000000)`. -/
def sra1Of (f : Word) : Word := (f >>> 1) ||| (f &&& 0x80000000#32)

/-- SLL8 (R219): `(t << 8) mod 2^32`. -/
def sll8Of (t : Word) : Word := t <<< 8

/-- `Shift` (R221): the right shift first, then the left one. -/
def shifter (f : Word) (sra1 sll8 : Bool) : Word :=
  let t := if sra1 then sra1Of f else f
  if sll8 then sll8Of t else t

/-- The ALU's output f of a word in a state (steps 2 and 3). -/
def aluOutput (m : Micro) (s : State) : Word :=
  aluFunction m.alu s.aInput (s.bInput m.bsrc) (Config.draw32 s.draws)

/-- The shifter's output r of a word in a state (step 4): what steps 6 and 9 call the result. -/
def result (m : Micro) (s : State) : Word := shifter (aluOutput m s) m.sra1 m.sll8

end Sys2Proof.Machine
end

