-- ==== Sys2Proof/Machine/Flags.lean ====
section
/-! DEFINITION. N and Z (44_alu_shift.md R222, R223): computed from one cycle's result, used by that cycle's next
address and stored nowhere (10_state.md R27). -/

namespace Sys2Proof.Machine

/-- The value N and Z are taken from (R222): the shifter's output, or its input under pre_shift. -/
def tapped (tap : FlagTap) (f r : Word) : Word :=
  match tap with
  | .postShift => r
  | .preShift => f

/-- Z (R222): all 32 bits are 0. -/
def zFlag (v : Word) : Bool := decide (v = 0#32)

/-- N (R223): bit 31. -/
def nFlag (v : Word) : Bool := v.getLsbD 31

end Sys2Proof.Machine
end

