-- ==== Sys2Proof/Machine/Cycle.lean ====
section
/-! DEFINITION. The controller cycle (40_cycle.md R122) of a horizontal microinstruction: steps 2 to 9, each its own
function, joined in the rule's order by `cycleOf`. Step 1 and the halt check are the controller's (Controller.lean). -/

namespace Sys2Proof.Machine

/-- Step 3's use of a free value: an undefined ALU code takes one (R217). -/
def State.useDraw (s : State) (m : Micro) : State := { s with draws := if usesDraw m.alu then s.draws + 1 else s.draws }

/-- Step 5: the pending read and the pending fetch land (R161, R164). They write different registers (R165). -/
def State.land (s : State) : State := s.landRead.landFetch

/-- Step 6: every register whose C bit is set gets r (R180). -/
def State.commit (s : State) (d : Dest) (r : Word) : State :=
  { s with regs := cDests.foldl (fun g x => if d.has x then g.set x r else g) s.regs }

/-- Step 7: a write stores MDR at word MAR, both after the commit (R162). -/
def State.doWrite (s : State) (wr : Bool) : State := if wr then s.memWriteWord (s.reg .mar) (s.reg .mdr) else s

/-- Step 8: a read and a fetch become pending (R160, R163). -/
def State.arm (s : State) (rd fetch : Bool) : State :=
  { s with pendRead := s.pendRead || rd, pendFetch := s.pendFetch || fetch }

/-- `NextAddress` (R240): ADDR, with 0x100 where JAMZ meets Z or JAMN meets N, and with the byte where JMPC is set. -/
def nextAddress (m : Micro) (z n : Bool) (mbr : Byte) : Slot :=
  m.addr ||| (if m.jamz && z then 0x100#9 else 0#9) ||| (if m.jamn && n then 0x100#9 else 0#9)
    ||| (if m.jmpc then mbr.setWidth 9 else 0#9)

/-- Step 9: the next microprogram counter, from the tapped result and from MBR after step 5 (R240). -/
def State.advance (s : State) (m : Micro) (f r : Word) : State :=
  let v := tapped s.params.flagTap f r
  { s with mpc := nextAddress m (zFlag v) (nFlag v) s.mbr }

/-- One cycle (R122): f and r from the state at its start, then steps 5 to 9 in order. -/
def cycleOf (m : Micro) (s : State) : State :=
  (((((s.useDraw m).land).commit m.dest (result m s)).doWrite m.wr).arm m.rd m.fetch).advance m (aluOutput m s) (result m s)

/-- Executing a horizontal word: one cycle, which never fails (R402). -/
def runMicro (m : Micro) (s : State) : Host.Outcome State Fault Refusal := .next (cycleOf m s)

end Sys2Proof.Machine
end

