-- ==== Sys2Proof/Machine/AluRows.lean ====
section
/-! DEFINITION. The sixteen ALU functions (44_alu_shift.md R200 to R216). -/

namespace Sys2Proof.Machine

/-- ALU.H (R201): the cycle of the word whose ALU field names H. -/
def execAluH (m : Micro) (s : State) : Host.Outcome State Fault Refusal := runMicro (m.setAlu .h) s

/-- ALU.B (R202): the cycle of the word whose ALU field names B. -/
def execAluB (m : Micro) (s : State) : Host.Outcome State Fault Refusal := runMicro (m.setAlu .b) s

/-- ALU.NOT_H (R203): the cycle of the word whose ALU field names NOT_H. -/
def execAluNotH (m : Micro) (s : State) : Host.Outcome State Fault Refusal := runMicro (m.setAlu .notH) s

/-- ALU.NOT_B (R204): the cycle of the word whose ALU field names NOT_B. -/
def execAluNotB (m : Micro) (s : State) : Host.Outcome State Fault Refusal := runMicro (m.setAlu .notB) s

/-- ALU.H_PLUS_B (R205): the cycle of the word whose ALU field names H_PLUS_B. -/
def execAluHPlusB (m : Micro) (s : State) : Host.Outcome State Fault Refusal := runMicro (m.setAlu .hPlusB) s

/-- ALU.H_PLUS_B_PLUS_1 (R206): the cycle of the word whose ALU field names H_PLUS_B_PLUS_1. -/
def execAluHPlusBPlus1 (m : Micro) (s : State) : Host.Outcome State Fault Refusal := runMicro (m.setAlu .hPlusBPlus1) s

/-- ALU.H_PLUS_1 (R207): the cycle of the word whose ALU field names H_PLUS_1. -/
def execAluHPlus1 (m : Micro) (s : State) : Host.Outcome State Fault Refusal := runMicro (m.setAlu .hPlus1) s

/-- ALU.B_PLUS_1 (R208): the cycle of the word whose ALU field names B_PLUS_1. -/
def execAluBPlus1 (m : Micro) (s : State) : Host.Outcome State Fault Refusal := runMicro (m.setAlu .bPlus1) s

/-- ALU.B_MINUS_H (R209): the cycle of the word whose ALU field names B_MINUS_H. -/
def execAluBMinusH (m : Micro) (s : State) : Host.Outcome State Fault Refusal := runMicro (m.setAlu .bMinusH) s

/-- ALU.B_MINUS_1 (R210): the cycle of the word whose ALU field names B_MINUS_1. -/
def execAluBMinus1 (m : Micro) (s : State) : Host.Outcome State Fault Refusal := runMicro (m.setAlu .bMinus1) s

/-- ALU.NEG_H (R211): the cycle of the word whose ALU field names NEG_H. -/
def execAluNegH (m : Micro) (s : State) : Host.Outcome State Fault Refusal := runMicro (m.setAlu .negH) s

/-- ALU.H_AND_B (R212): the cycle of the word whose ALU field names H_AND_B. -/
def execAluHAndB (m : Micro) (s : State) : Host.Outcome State Fault Refusal := runMicro (m.setAlu .hAndB) s

/-- ALU.H_OR_B (R213): the cycle of the word whose ALU field names H_OR_B. -/
def execAluHOrB (m : Micro) (s : State) : Host.Outcome State Fault Refusal := runMicro (m.setAlu .hOrB) s

/-- ALU.ZERO (R214): the cycle of the word whose ALU field names ZERO. -/
def execAluZero (m : Micro) (s : State) : Host.Outcome State Fault Refusal := runMicro (m.setAlu .zero) s

/-- ALU.ONE (R215): the cycle of the word whose ALU field names ONE. -/
def execAluOne (m : Micro) (s : State) : Host.Outcome State Fault Refusal := runMicro (m.setAlu .one) s

/-- ALU.MINUS_ONE (R216): the cycle of the word whose ALU field names MINUS_ONE. -/
def execAluMinusOne (m : Micro) (s : State) : Host.Outcome State Fault Refusal := runMicro (m.setAlu .minusOne) s

end Sys2Proof.Machine
end

