-- ==== Sys2Proof/Machine/AluUndefined.lean ====
section
/-! DEFINITION. The 48 undefined ALU codes (44_alu_shift.md R217): the word runs and the result of the ALU is a free value. -/

namespace Sys2Proof.Machine

/-- ALU.UNDEFINED_0x00 (R217): the cycle of the word whose ALU field is the undefined code 0x00. -/
def execAluUndefined0x00 (m : Micro) (s : State) : Host.Outcome State Fault Refusal := runMicro (m.setAlu (.undefined 0x00#6)) s

/-- ALU.UNDEFINED_0x01 (R217): the cycle of the word whose ALU field is the undefined code 0x01. -/
def execAluUndefined0x01 (m : Micro) (s : State) : Host.Outcome State Fault Refusal := runMicro (m.setAlu (.undefined 0x01#6)) s

/-- ALU.UNDEFINED_0x02 (R217): the cycle of the word whose ALU field is the undefined code 0x02. -/
def execAluUndefined0x02 (m : Micro) (s : State) : Host.Outcome State Fault Refusal := runMicro (m.setAlu (.undefined 0x02#6)) s

/-- ALU.UNDEFINED_0x03 (R217): the cycle of the word whose ALU field is the undefined code 0x03. -/
def execAluUndefined0x03 (m : Micro) (s : State) : Host.Outcome State Fault Refusal := runMicro (m.setAlu (.undefined 0x03#6)) s

/-- ALU.UNDEFINED_0x04 (R217): the cycle of the word whose ALU field is the undefined code 0x04. -/
def execAluUndefined0x04 (m : Micro) (s : State) : Host.Outcome State Fault Refusal := runMicro (m.setAlu (.undefined 0x04#6)) s

/-- ALU.UNDEFINED_0x05 (R217): the cycle of the word whose ALU field is the undefined code 0x05. -/
def execAluUndefined0x05 (m : Micro) (s : State) : Host.Outcome State Fault Refusal := runMicro (m.setAlu (.undefined 0x05#6)) s

/-- ALU.UNDEFINED_0x06 (R217): the cycle of the word whose ALU field is the undefined code 0x06. -/
def execAluUndefined0x06 (m : Micro) (s : State) : Host.Outcome State Fault Refusal := runMicro (m.setAlu (.undefined 0x06#6)) s

/-- ALU.UNDEFINED_0x07 (R217): the cycle of the word whose ALU field is the undefined code 0x07. -/
def execAluUndefined0x07 (m : Micro) (s : State) : Host.Outcome State Fault Refusal := runMicro (m.setAlu (.undefined 0x07#6)) s

/-- ALU.UNDEFINED_0x08 (R217): the cycle of the word whose ALU field is the undefined code 0x08. -/
def execAluUndefined0x08 (m : Micro) (s : State) : Host.Outcome State Fault Refusal := runMicro (m.setAlu (.undefined 0x08#6)) s

/-- ALU.UNDEFINED_0x09 (R217): the cycle of the word whose ALU field is the undefined code 0x09. -/
def execAluUndefined0x09 (m : Micro) (s : State) : Host.Outcome State Fault Refusal := runMicro (m.setAlu (.undefined 0x09#6)) s

/-- ALU.UNDEFINED_0x0A (R217): the cycle of the word whose ALU field is the undefined code 0x0A. -/
def execAluUndefined0x0A (m : Micro) (s : State) : Host.Outcome State Fault Refusal := runMicro (m.setAlu (.undefined 0x0A#6)) s

/-- ALU.UNDEFINED_0x0B (R217): the cycle of the word whose ALU field is the undefined code 0x0B. -/
def execAluUndefined0x0B (m : Micro) (s : State) : Host.Outcome State Fault Refusal := runMicro (m.setAlu (.undefined 0x0B#6)) s

/-- ALU.UNDEFINED_0x0D (R217): the cycle of the word whose ALU field is the undefined code 0x0D. -/
def execAluUndefined0x0D (m : Micro) (s : State) : Host.Outcome State Fault Refusal := runMicro (m.setAlu (.undefined 0x0D#6)) s

/-- ALU.UNDEFINED_0x0E (R217): the cycle of the word whose ALU field is the undefined code 0x0E. -/
def execAluUndefined0x0E (m : Micro) (s : State) : Host.Outcome State Fault Refusal := runMicro (m.setAlu (.undefined 0x0E#6)) s

/-- ALU.UNDEFINED_0x0F (R217): the cycle of the word whose ALU field is the undefined code 0x0F. -/
def execAluUndefined0x0F (m : Micro) (s : State) : Host.Outcome State Fault Refusal := runMicro (m.setAlu (.undefined 0x0F#6)) s

/-- ALU.UNDEFINED_0x13 (R217): the cycle of the word whose ALU field is the undefined code 0x13. -/
def execAluUndefined0x13 (m : Micro) (s : State) : Host.Outcome State Fault Refusal := runMicro (m.setAlu (.undefined 0x13#6)) s

/-- ALU.UNDEFINED_0x15 (R217): the cycle of the word whose ALU field is the undefined code 0x15. -/
def execAluUndefined0x15 (m : Micro) (s : State) : Host.Outcome State Fault Refusal := runMicro (m.setAlu (.undefined 0x15#6)) s

/-- ALU.UNDEFINED_0x16 (R217): the cycle of the word whose ALU field is the undefined code 0x16. -/
def execAluUndefined0x16 (m : Micro) (s : State) : Host.Outcome State Fault Refusal := runMicro (m.setAlu (.undefined 0x16#6)) s

/-- ALU.UNDEFINED_0x17 (R217): the cycle of the word whose ALU field is the undefined code 0x17. -/
def execAluUndefined0x17 (m : Micro) (s : State) : Host.Outcome State Fault Refusal := runMicro (m.setAlu (.undefined 0x17#6)) s

/-- ALU.UNDEFINED_0x19 (R217): the cycle of the word whose ALU field is the undefined code 0x19. -/
def execAluUndefined0x19 (m : Micro) (s : State) : Host.Outcome State Fault Refusal := runMicro (m.setAlu (.undefined 0x19#6)) s

/-- ALU.UNDEFINED_0x1B (R217): the cycle of the word whose ALU field is the undefined code 0x1B. -/
def execAluUndefined0x1B (m : Micro) (s : State) : Host.Outcome State Fault Refusal := runMicro (m.setAlu (.undefined 0x1B#6)) s

/-- ALU.UNDEFINED_0x1D (R217): the cycle of the word whose ALU field is the undefined code 0x1D. -/
def execAluUndefined0x1D (m : Micro) (s : State) : Host.Outcome State Fault Refusal := runMicro (m.setAlu (.undefined 0x1D#6)) s

/-- ALU.UNDEFINED_0x1E (R217): the cycle of the word whose ALU field is the undefined code 0x1E. -/
def execAluUndefined0x1E (m : Micro) (s : State) : Host.Outcome State Fault Refusal := runMicro (m.setAlu (.undefined 0x1E#6)) s

/-- ALU.UNDEFINED_0x1F (R217): the cycle of the word whose ALU field is the undefined code 0x1F. -/
def execAluUndefined0x1F (m : Micro) (s : State) : Host.Outcome State Fault Refusal := runMicro (m.setAlu (.undefined 0x1F#6)) s

/-- ALU.UNDEFINED_0x20 (R217): the cycle of the word whose ALU field is the undefined code 0x20. -/
def execAluUndefined0x20 (m : Micro) (s : State) : Host.Outcome State Fault Refusal := runMicro (m.setAlu (.undefined 0x20#6)) s

/-- ALU.UNDEFINED_0x21 (R217): the cycle of the word whose ALU field is the undefined code 0x21. -/
def execAluUndefined0x21 (m : Micro) (s : State) : Host.Outcome State Fault Refusal := runMicro (m.setAlu (.undefined 0x21#6)) s

/-- ALU.UNDEFINED_0x22 (R217): the cycle of the word whose ALU field is the undefined code 0x22. -/
def execAluUndefined0x22 (m : Micro) (s : State) : Host.Outcome State Fault Refusal := runMicro (m.setAlu (.undefined 0x22#6)) s

/-- ALU.UNDEFINED_0x23 (R217): the cycle of the word whose ALU field is the undefined code 0x23. -/
def execAluUndefined0x23 (m : Micro) (s : State) : Host.Outcome State Fault Refusal := runMicro (m.setAlu (.undefined 0x23#6)) s

/-- ALU.UNDEFINED_0x24 (R217): the cycle of the word whose ALU field is the undefined code 0x24. -/
def execAluUndefined0x24 (m : Micro) (s : State) : Host.Outcome State Fault Refusal := runMicro (m.setAlu (.undefined 0x24#6)) s

/-- ALU.UNDEFINED_0x25 (R217): the cycle of the word whose ALU field is the undefined code 0x25. -/
def execAluUndefined0x25 (m : Micro) (s : State) : Host.Outcome State Fault Refusal := runMicro (m.setAlu (.undefined 0x25#6)) s

/-- ALU.UNDEFINED_0x26 (R217): the cycle of the word whose ALU field is the undefined code 0x26. -/
def execAluUndefined0x26 (m : Micro) (s : State) : Host.Outcome State Fault Refusal := runMicro (m.setAlu (.undefined 0x26#6)) s

/-- ALU.UNDEFINED_0x27 (R217): the cycle of the word whose ALU field is the undefined code 0x27. -/
def execAluUndefined0x27 (m : Micro) (s : State) : Host.Outcome State Fault Refusal := runMicro (m.setAlu (.undefined 0x27#6)) s

/-- ALU.UNDEFINED_0x28 (R217): the cycle of the word whose ALU field is the undefined code 0x28. -/
def execAluUndefined0x28 (m : Micro) (s : State) : Host.Outcome State Fault Refusal := runMicro (m.setAlu (.undefined 0x28#6)) s

/-- ALU.UNDEFINED_0x29 (R217): the cycle of the word whose ALU field is the undefined code 0x29. -/
def execAluUndefined0x29 (m : Micro) (s : State) : Host.Outcome State Fault Refusal := runMicro (m.setAlu (.undefined 0x29#6)) s

/-- ALU.UNDEFINED_0x2A (R217): the cycle of the word whose ALU field is the undefined code 0x2A. -/
def execAluUndefined0x2A (m : Micro) (s : State) : Host.Outcome State Fault Refusal := runMicro (m.setAlu (.undefined 0x2A#6)) s

/-- ALU.UNDEFINED_0x2B (R217): the cycle of the word whose ALU field is the undefined code 0x2B. -/
def execAluUndefined0x2B (m : Micro) (s : State) : Host.Outcome State Fault Refusal := runMicro (m.setAlu (.undefined 0x2B#6)) s

/-- ALU.UNDEFINED_0x2D (R217): the cycle of the word whose ALU field is the undefined code 0x2D. -/
def execAluUndefined0x2D (m : Micro) (s : State) : Host.Outcome State Fault Refusal := runMicro (m.setAlu (.undefined 0x2D#6)) s

/-- ALU.UNDEFINED_0x2E (R217): the cycle of the word whose ALU field is the undefined code 0x2E. -/
def execAluUndefined0x2E (m : Micro) (s : State) : Host.Outcome State Fault Refusal := runMicro (m.setAlu (.undefined 0x2E#6)) s

/-- ALU.UNDEFINED_0x2F (R217): the cycle of the word whose ALU field is the undefined code 0x2F. -/
def execAluUndefined0x2F (m : Micro) (s : State) : Host.Outcome State Fault Refusal := runMicro (m.setAlu (.undefined 0x2F#6)) s

/-- ALU.UNDEFINED_0x30 (R217): the cycle of the word whose ALU field is the undefined code 0x30. -/
def execAluUndefined0x30 (m : Micro) (s : State) : Host.Outcome State Fault Refusal := runMicro (m.setAlu (.undefined 0x30#6)) s

/-- ALU.UNDEFINED_0x31 (R217): the cycle of the word whose ALU field is the undefined code 0x31. -/
def execAluUndefined0x31 (m : Micro) (s : State) : Host.Outcome State Fault Refusal := runMicro (m.setAlu (.undefined 0x31#6)) s

/-- ALU.UNDEFINED_0x32 (R217): the cycle of the word whose ALU field is the undefined code 0x32. -/
def execAluUndefined0x32 (m : Micro) (s : State) : Host.Outcome State Fault Refusal := runMicro (m.setAlu (.undefined 0x32#6)) s

/-- ALU.UNDEFINED_0x33 (R217): the cycle of the word whose ALU field is the undefined code 0x33. -/
def execAluUndefined0x33 (m : Micro) (s : State) : Host.Outcome State Fault Refusal := runMicro (m.setAlu (.undefined 0x33#6)) s

/-- ALU.UNDEFINED_0x34 (R217): the cycle of the word whose ALU field is the undefined code 0x34. -/
def execAluUndefined0x34 (m : Micro) (s : State) : Host.Outcome State Fault Refusal := runMicro (m.setAlu (.undefined 0x34#6)) s

/-- ALU.UNDEFINED_0x36 (R217): the cycle of the word whose ALU field is the undefined code 0x36. -/
def execAluUndefined0x36 (m : Micro) (s : State) : Host.Outcome State Fault Refusal := runMicro (m.setAlu (.undefined 0x36#6)) s

/-- ALU.UNDEFINED_0x38 (R217): the cycle of the word whose ALU field is the undefined code 0x38. -/
def execAluUndefined0x38 (m : Micro) (s : State) : Host.Outcome State Fault Refusal := runMicro (m.setAlu (.undefined 0x38#6)) s

/-- ALU.UNDEFINED_0x3A (R217): the cycle of the word whose ALU field is the undefined code 0x3A. -/
def execAluUndefined0x3A (m : Micro) (s : State) : Host.Outcome State Fault Refusal := runMicro (m.setAlu (.undefined 0x3A#6)) s

/-- ALU.UNDEFINED_0x3E (R217): the cycle of the word whose ALU field is the undefined code 0x3E. -/
def execAluUndefined0x3E (m : Micro) (s : State) : Host.Outcome State Fault Refusal := runMicro (m.setAlu (.undefined 0x3E#6)) s

end Sys2Proof.Machine
end

