-- ==== Sys2Proof/Machine/BBus.lean ====
section
/-! DEFINITION. The B field (41_bbus.md R140 to R152): the nine sources, the reserved values and the halt marker. -/

namespace Sys2Proof.Machine

/-- B.MDR (R141): the cycle of the word whose B source is MDR. -/
def execBMdr (m : Micro) (s : State) : Host.Outcome State Fault Refusal := runMicro (m.setB .mdr) s

/-- B.PC (R142): the cycle of the word whose B source is PC. -/
def execBPc (m : Micro) (s : State) : Host.Outcome State Fault Refusal := runMicro (m.setB .pc) s

/-- B.MBR (R143): the cycle of the word whose B source is MBR. -/
def execBMbr (m : Micro) (s : State) : Host.Outcome State Fault Refusal := runMicro (m.setB .mbr) s

/-- B.MBRU (R144): the cycle of the word whose B source is MBRU. -/
def execBMbru (m : Micro) (s : State) : Host.Outcome State Fault Refusal := runMicro (m.setB .mbru) s

/-- B.SP (R145): the cycle of the word whose B source is SP. -/
def execBSp (m : Micro) (s : State) : Host.Outcome State Fault Refusal := runMicro (m.setB .sp) s

/-- B.LV (R146): the cycle of the word whose B source is LV. -/
def execBLv (m : Micro) (s : State) : Host.Outcome State Fault Refusal := runMicro (m.setB .lv) s

/-- B.CPP (R147): the cycle of the word whose B source is CPP. -/
def execBCpp (m : Micro) (s : State) : Host.Outcome State Fault Refusal := runMicro (m.setB .cpp) s

/-- B.TOS (R148): the cycle of the word whose B source is TOS. -/
def execBTos (m : Micro) (s : State) : Host.Outcome State Fault Refusal := runMicro (m.setB .tos) s

/-- B.OPC (R149): the cycle of the word whose B source is OPC. -/
def execBOpc (m : Micro) (s : State) : Host.Outcome State Fault Refusal := runMicro (m.setB .opc) s

/-- B.RESERVED_9 (R150): the word faults in step 2, before anything is written. -/
def execBReserved9 (s : State) : Host.Outcome State Fault Refusal := raiseFault (.invalidBSelect s.mpc 9#4)

/-- B.RESERVED_10 (R150): the word faults in step 2, before anything is written. -/
def execBReserved10 (s : State) : Host.Outcome State Fault Refusal := raiseFault (.invalidBSelect s.mpc 10#4)

/-- B.RESERVED_11 (R150): the word faults in step 2, before anything is written. -/
def execBReserved11 (s : State) : Host.Outcome State Fault Refusal := raiseFault (.invalidBSelect s.mpc 11#4)

/-- B.RESERVED_12 (R150): the word faults in step 2, before anything is written. -/
def execBReserved12 (s : State) : Host.Outcome State Fault Refusal := raiseFault (.invalidBSelect s.mpc 12#4)

/-- B.RESERVED_13 (R150): the word faults in step 2, before anything is written. -/
def execBReserved13 (s : State) : Host.Outcome State Fault Refusal := raiseFault (.invalidBSelect s.mpc 13#4)

/-- B.RESERVED_14 (R150): the word faults in step 2, before anything is written. -/
def execBReserved14 (s : State) : Host.Outcome State Fault Refusal := raiseFault (.invalidBSelect s.mpc 14#4)

/-- HALT (R246, R121): the word is not executed. The run status becomes halted and nothing else changes
(log entry 8). -/
def execHalt (s : State) : Host.Outcome State Fault Refusal := .next { s with status := .halted }

end Sys2Proof.Machine
end

