-- ==== Sys2Proof/Machine/CBus.lean ====
section
/-! DEFINITION. The C field (43_cbus.md R180 to R192). -/

namespace Sys2Proof.Machine

/-- C.MAR (R181): the cycle of the word whose C field has the bit of MAR. -/
def execCMar (m : Micro) (s : State) : Host.Outcome State Fault Refusal := runMicro (m.setDest .mar) s

/-- C.MDR (R182): the cycle of the word whose C field has the bit of MDR. -/
def execCMdr (m : Micro) (s : State) : Host.Outcome State Fault Refusal := runMicro (m.setDest .mdr) s

/-- C.PC (R183): the cycle of the word whose C field has the bit of PC. -/
def execCPc (m : Micro) (s : State) : Host.Outcome State Fault Refusal := runMicro (m.setDest .pc) s

/-- C.SP (R184): the cycle of the word whose C field has the bit of SP. -/
def execCSp (m : Micro) (s : State) : Host.Outcome State Fault Refusal := runMicro (m.setDest .sp) s

/-- C.LV (R185): the cycle of the word whose C field has the bit of LV. -/
def execCLv (m : Micro) (s : State) : Host.Outcome State Fault Refusal := runMicro (m.setDest .lv) s

/-- C.CPP (R186): the cycle of the word whose C field has the bit of CPP. -/
def execCCpp (m : Micro) (s : State) : Host.Outcome State Fault Refusal := runMicro (m.setDest .cpp) s

/-- C.TOS (R187): the cycle of the word whose C field has the bit of TOS. -/
def execCTos (m : Micro) (s : State) : Host.Outcome State Fault Refusal := runMicro (m.setDest .tos) s

/-- C.OPC (R188): the cycle of the word whose C field has the bit of OPC. -/
def execCOpc (m : Micro) (s : State) : Host.Outcome State Fault Refusal := runMicro (m.setDest .opc) s

/-- C.H (R189): the cycle of the word whose C field has the bit of H. -/
def execCH (m : Micro) (s : State) : Host.Outcome State Fault Refusal := runMicro (m.setDest .h) s

/-- C.NONE (R191): the cycle of the word whose C field is 0. -/
def execCNone (m : Micro) (s : State) : Host.Outcome State Fault Refusal := runMicro m.clearDest s

end Sys2Proof.Machine
end

