-- ==== Sys2Proof/Machine/MemoryRows.lean ====
section
/-! DEFINITION. The memory micro-operations (42_memory_ops.md R160 to R168). -/

namespace Sys2Proof.Machine

/-- MEM.FETCH (R163): the cycle of the word whose memory bits name FETCH. -/
def execMemFetch (m : Micro) (s : State) : Host.Outcome State Fault Refusal := runMicro m.setFetch s

/-- MEM.RD (R160): the cycle of the word whose memory bits name RD. -/
def execMemRd (m : Micro) (s : State) : Host.Outcome State Fault Refusal := runMicro m.setRd s

/-- MEM.WR (R162): the cycle of the word whose memory bits name WR. -/
def execMemWr (m : Micro) (s : State) : Host.Outcome State Fault Refusal := runMicro m.setWr s

/-- MEM.RD_FETCH (R165): the cycle of the word whose memory bits name RD and FETCH. -/
def execMemRdFetch (m : Micro) (s : State) : Host.Outcome State Fault Refusal := runMicro m.setRd.setFetch s

/-- MEM.RD_WR (R166): the cycle of the word whose memory bits name RD and WR. -/
def execMemRdWr (m : Micro) (s : State) : Host.Outcome State Fault Refusal := runMicro m.setRd.setWr s

end Sys2Proof.Machine
end

