-- ==== Sys2Proof/Machine/NextRows.lean ====
section
/-! DEFINITION. The next-address bits (45_next_address.md R240 to R248) and the unused bits (30_encoding.md R82). -/

namespace Sys2Proof.Machine

/-- NEXT.GOTO (R241): the cycle of the word whose next-address bits are those of GOTO. -/
def execNextGoto (m : Micro) (s : State) : Host.Outcome State Fault Refusal := runMicro (m.setNext false false false) s

/-- NEXT.JAMZ (R242): the cycle of the word whose next-address bits are those of JAMZ. -/
def execNextJamz (m : Micro) (s : State) : Host.Outcome State Fault Refusal := runMicro (m.setNext true false false) s

/-- NEXT.JAMN (R243): the cycle of the word whose next-address bits are those of JAMN. -/
def execNextJamn (m : Micro) (s : State) : Host.Outcome State Fault Refusal := runMicro (m.setNext false true false) s

/-- NEXT.JMPC (R244): the cycle of the word whose next-address bits are those of JMPC. -/
def execNextJmpc (m : Micro) (s : State) : Host.Outcome State Fault Refusal := runMicro (m.setNext false false true) s

/-- NEXT.JAMZ_JAMN (R245): the cycle of the word whose next-address bits are those of JAMZ_JAMN. -/
def execNextJamzJamn (m : Micro) (s : State) : Host.Outcome State Fault Refusal := runMicro (m.setNext true true false) s

/-- NEXT.JAMZ_JMPC (R245): the cycle of the word whose next-address bits are those of JAMZ_JMPC. -/
def execNextJamzJmpc (m : Micro) (s : State) : Host.Outcome State Fault Refusal := runMicro (m.setNext true false true) s

/-- NEXT.JAMN_JMPC (R245): the cycle of the word whose next-address bits are those of JAMN_JMPC. -/
def execNextJamnJmpc (m : Micro) (s : State) : Host.Outcome State Fault Refusal := runMicro (m.setNext false true true) s

/-- NEXT.JAMZ_JAMN_JMPC (R245): the cycle of the word whose next-address bits are those of JAMZ_JAMN_JMPC. -/
def execNextJamzJamnJmpc (m : Micro) (s : State) : Host.Outcome State Fault Refusal := runMicro (m.setNext true true true) s

/-- UNUSED.BITS_39_36 (R82): the cycle of the word whose bits 39..36 hold anything: they have no effect. -/
def execUnusedBits3936 (m : Micro) (s : State) : Host.Outcome State Fault Refusal := runMicro m s

end Sys2Proof.Machine
end

