-- ==== Sys2Proof/Machine/ShiftRows.lean ====
section
/-! DEFINITION. The shift bits (44_alu_shift.md R218 to R221). -/

namespace Sys2Proof.Machine

/-- SH.NONE (R221): the cycle of the word whose shift bits are those of NONE. -/
def execShNone (m : Micro) (s : State) : Host.Outcome State Fault Refusal := runMicro (m.setShift false false) s

/-- SH.SRA1 (R218): the cycle of the word whose shift bits are those of SRA1. -/
def execShSra1 (m : Micro) (s : State) : Host.Outcome State Fault Refusal := runMicro (m.setShift true false) s

/-- SH.SLL8 (R219): the cycle of the word whose shift bits are those of SLL8. -/
def execShSll8 (m : Micro) (s : State) : Host.Outcome State Fault Refusal := runMicro (m.setShift false true) s

/-- SH.SRA1_SLL8 (R220): the cycle of the word whose shift bits are those of SRA1_SLL8. -/
def execShSra1Sll8 (m : Micro) (s : State) : Host.Outcome State Fault Refusal := runMicro (m.setShift true true) s

end Sys2Proof.Machine
end

