-- ==== Sys2Proof/Machine/Dispatch.lean ====
section
/-! DEFINITION. One arm per instruction: each calls that instruction's own meaning. -/

namespace Sys2Proof.Machine

def exec (i : Instr) (s : State) : Host.Outcome State Fault Refusal :=
  match i with
  | .bMdr m => Sys2Proof.Machine.execBMdr m s
  | .bPc m => Sys2Proof.Machine.execBPc m s
  | .bMbr m => Sys2Proof.Machine.execBMbr m s
  | .bMbru m => Sys2Proof.Machine.execBMbru m s
  | .bSp m => Sys2Proof.Machine.execBSp m s
  | .bLv m => Sys2Proof.Machine.execBLv m s
  | .bCpp m => Sys2Proof.Machine.execBCpp m s
  | .bTos m => Sys2Proof.Machine.execBTos m s
  | .bOpc m => Sys2Proof.Machine.execBOpc m s
  | .bReserved9 => Sys2Proof.Machine.execBReserved9 s
  | .bReserved10 => Sys2Proof.Machine.execBReserved10 s
  | .bReserved11 => Sys2Proof.Machine.execBReserved11 s
  | .bReserved12 => Sys2Proof.Machine.execBReserved12 s
  | .bReserved13 => Sys2Proof.Machine.execBReserved13 s
  | .bReserved14 => Sys2Proof.Machine.execBReserved14 s
  | .halt => Sys2Proof.Machine.execHalt s
  | .memFetch m => Sys2Proof.Machine.execMemFetch m s
  | .memRd m => Sys2Proof.Machine.execMemRd m s
  | .memWr m => Sys2Proof.Machine.execMemWr m s
  | .memRdFetch m => Sys2Proof.Machine.execMemRdFetch m s
  | .memRdWr m => Sys2Proof.Machine.execMemRdWr m s
  | .cMar m => Sys2Proof.Machine.execCMar m s
  | .cMdr m => Sys2Proof.Machine.execCMdr m s
  | .cPc m => Sys2Proof.Machine.execCPc m s
  | .cSp m => Sys2Proof.Machine.execCSp m s
  | .cLv m => Sys2Proof.Machine.execCLv m s
  | .cCpp m => Sys2Proof.Machine.execCCpp m s
  | .cTos m => Sys2Proof.Machine.execCTos m s
  | .cOpc m => Sys2Proof.Machine.execCOpc m s
  | .cH m => Sys2Proof.Machine.execCH m s
  | .cNone m => Sys2Proof.Machine.execCNone m s
  | .aluH m => Sys2Proof.Machine.execAluH m s
  | .aluB m => Sys2Proof.Machine.execAluB m s
  | .aluNotH m => Sys2Proof.Machine.execAluNotH m s
  | .aluNotB m => Sys2Proof.Machine.execAluNotB m s
  | .aluHPlusB m => Sys2Proof.Machine.execAluHPlusB m s
  | .aluHPlusBPlus1 m => Sys2Proof.Machine.execAluHPlusBPlus1 m s
  | .aluHPlus1 m => Sys2Proof.Machine.execAluHPlus1 m s
  | .aluBPlus1 m => Sys2Proof.Machine.execAluBPlus1 m s
  | .aluBMinusH m => Sys2Proof.Machine.execAluBMinusH m s
  | .aluBMinus1 m => Sys2Proof.Machine.execAluBMinus1 m s
  | .aluNegH m => Sys2Proof.Machine.execAluNegH m s
  | .aluHAndB m => Sys2Proof.Machine.execAluHAndB m s
  | .aluHOrB m => Sys2Proof.Machine.execAluHOrB m s
  | .aluZero m => Sys2Proof.Machine.execAluZero m s
  | .aluOne m => Sys2Proof.Machine.execAluOne m s
  | .aluMinusOne m => Sys2Proof.Machine.execAluMinusOne m s
  | .aluUndefined0x00 m => Sys2Proof.Machine.execAluUndefined0x00 m s
  | .aluUndefined0x01 m => Sys2Proof.Machine.execAluUndefined0x01 m s
  | .aluUndefined0x02 m => Sys2Proof.Machine.execAluUndefined0x02 m s
  | .aluUndefined0x03 m => Sys2Proof.Machine.execAluUndefined0x03 m s
  | .aluUndefined0x04 m => Sys2Proof.Machine.execAluUndefined0x04 m s
  | .aluUndefined0x05 m => Sys2Proof.Machine.execAluUndefined0x05 m s
  | .aluUndefined0x06 m => Sys2Proof.Machine.execAluUndefined0x06 m s
  | .aluUndefined0x07 m => Sys2Proof.Machine.execAluUndefined0x07 m s
  | .aluUndefined0x08 m => Sys2Proof.Machine.execAluUndefined0x08 m s
  | .aluUndefined0x09 m => Sys2Proof.Machine.execAluUndefined0x09 m s
  | .aluUndefined0x0A m => Sys2Proof.Machine.execAluUndefined0x0A m s
  | .aluUndefined0x0B m => Sys2Proof.Machine.execAluUndefined0x0B m s
  | .aluUndefined0x0D m => Sys2Proof.Machine.execAluUndefined0x0D m s
  | .aluUndefined0x0E m => Sys2Proof.Machine.execAluUndefined0x0E m s
  | .aluUndefined0x0F m => Sys2Proof.Machine.execAluUndefined0x0F m s
  | .aluUndefined0x13 m => Sys2Proof.Machine.execAluUndefined0x13 m s
  | .aluUndefined0x15 m => Sys2Proof.Machine.execAluUndefined0x15 m s
  | .aluUndefined0x16 m => Sys2Proof.Machine.execAluUndefined0x16 m s
  | .aluUndefined0x17 m => Sys2Proof.Machine.execAluUndefined0x17 m s
  | .aluUndefined0x19 m => Sys2Proof.Machine.execAluUndefined0x19 m s
  | .aluUndefined0x1B m => Sys2Proof.Machine.execAluUndefined0x1B m s
  | .aluUndefined0x1D m => Sys2Proof.Machine.execAluUndefined0x1D m s
  | .aluUndefined0x1E m => Sys2Proof.Machine.execAluUndefined0x1E m s
  | .aluUndefined0x1F m => Sys2Proof.Machine.execAluUndefined0x1F m s
  | .aluUndefined0x20 m => Sys2Proof.Machine.execAluUndefined0x20 m s
  | .aluUndefined0x21 m => Sys2Proof.Machine.execAluUndefined0x21 m s
  | .aluUndefined0x22 m => Sys2Proof.Machine.execAluUndefined0x22 m s
  | .aluUndefined0x23 m => Sys2Proof.Machine.execAluUndefined0x23 m s
  | .aluUndefined0x24 m => Sys2Proof.Machine.execAluUndefined0x24 m s
  | .aluUndefined0x25 m => Sys2Proof.Machine.execAluUndefined0x25 m s
  | .aluUndefined0x26 m => Sys2Proof.Machine.execAluUndefined0x26 m s
  | .aluUndefined0x27 m => Sys2Proof.Machine.execAluUndefined0x27 m s
  | .aluUndefined0x28 m => Sys2Proof.Machine.execAluUndefined0x28 m s
  | .aluUndefined0x29 m => Sys2Proof.Machine.execAluUndefined0x29 m s
  | .aluUndefined0x2A m => Sys2Proof.Machine.execAluUndefined0x2A m s
  | .aluUndefined0x2B m => Sys2Proof.Machine.execAluUndefined0x2B m s
  | .aluUndefined0x2D m => Sys2Proof.Machine.execAluUndefined0x2D m s
  | .aluUndefined0x2E m => Sys2Proof.Machine.execAluUndefined0x2E m s
  | .aluUndefined0x2F m => Sys2Proof.Machine.execAluUndefined0x2F m s
  | .aluUndefined0x30 m => Sys2Proof.Machine.execAluUndefined0x30 m s
  | .aluUndefined0x31 m => Sys2Proof.Machine.execAluUndefined0x31 m s
  | .aluUndefined0x32 m => Sys2Proof.Machine.execAluUndefined0x32 m s
  | .aluUndefined0x33 m => Sys2Proof.Machine.execAluUndefined0x33 m s
  | .aluUndefined0x34 m => Sys2Proof.Machine.execAluUndefined0x34 m s
  | .aluUndefined0x36 m => Sys2Proof.Machine.execAluUndefined0x36 m s
  | .aluUndefined0x38 m => Sys2Proof.Machine.execAluUndefined0x38 m s
  | .aluUndefined0x3A m => Sys2Proof.Machine.execAluUndefined0x3A m s
  | .aluUndefined0x3E m => Sys2Proof.Machine.execAluUndefined0x3E m s
  | .shNone m => Sys2Proof.Machine.execShNone m s
  | .shSra1 m => Sys2Proof.Machine.execShSra1 m s
  | .shSll8 m => Sys2Proof.Machine.execShSll8 m s
  | .shSra1Sll8 m => Sys2Proof.Machine.execShSra1Sll8 m s
  | .nextGoto m => Sys2Proof.Machine.execNextGoto m s
  | .nextJamz m => Sys2Proof.Machine.execNextJamz m s
  | .nextJamn m => Sys2Proof.Machine.execNextJamn m s
  | .nextJmpc m => Sys2Proof.Machine.execNextJmpc m s
  | .nextJamzJamn m => Sys2Proof.Machine.execNextJamzJamn m s
  | .nextJamzJmpc m => Sys2Proof.Machine.execNextJamzJmpc m s
  | .nextJamnJmpc m => Sys2Proof.Machine.execNextJamnJmpc m s
  | .nextJamzJamnJmpc m => Sys2Proof.Machine.execNextJamzJamnJmpc m s
  | .unusedBits3936 m => Sys2Proof.Machine.execUnusedBits3936 m s

end Sys2Proof.Machine
end

