-- ==== Sys2Proof/Machine/Controller.lean ====
section
/-! DEFINITION. The controller (40_cycle.md R120, R121): what one step of the machine is. -/

namespace Sys2Proof.Machine

/-- One step. A running machine executes the word at MPC (R120). A halted machine is final: it answers its own state
for ever (R121, log entry 8). A faulted machine has no step: it answers its fault for ever (R401, log entry 9). -/
def controllerStep (s : State) : Host.Outcome State Fault Refusal :=
  match s.status with
  | .running => exec (decode s.currentWord) s
  | .halted => .next s
  | .faulted f => .fault f

end Sys2Proof.Machine
end

