-- ==== Sys2Proof/Machine/Step.lean ====
section
/-! DEFINITION. The machine's step, and how an instruction is put where the next step fetches it. -/

namespace Sys2Proof.Machine

/-- One step of the machine. -/
def step (s : State) : Host.Outcome State Fault Refusal := controllerStep s

/-- The state whose next step fetches and runs exactly the instruction with these bits: the word is stored in the
control-store slot MPC addresses, and the run status is running. It stands for the load of an image from outside the
machine (log entry 7). -/
def State.withFetchWord (s : State) (nbits w : Nat) : State := s.placeWord (BitVec.ofNat 40 (w % 2 ^ nbits))

end Sys2Proof.Machine
end

