-- ==== Sys2Proof/Machine/Disassemble.lean ====
section
/-! DEFINITION. The decoder's text rendering of a control word (46_microassembler.md R281 to R283), in the canonical
form of R282. -/

namespace Sys2Proof.Machine

/-- The characters of a string. -/
def txt (s : String) : Text := s.toList

/-- A number below 100 in decimal. -/
def decimalText (n : Nat) : Text := if n < 10 then [hexDigit n] else [hexDigit (n / 10), hexDigit (n % 10)]

/-- A register's name. -/
def regName : Reg → Text
  | .mar => txt "MAR"
  | .mdr => txt "MDR"
  | .pc => txt "PC"
  | .sp => txt "SP"
  | .lv => txt "LV"
  | .cpp => txt "CPP"
  | .tos => txt "TOS"
  | .opc => txt "OPC"
  | .h => txt "H"

/-- A B source's name. -/
def sourceName : BSource → Text
  | .mdr => txt "MDR"
  | .pc => txt "PC"
  | .mbr => txt "MBR"
  | .mbru => txt "MBRU"
  | .sp => txt "SP"
  | .lv => txt "LV"
  | .cpp => txt "CPP"
  | .tos => txt "TOS"
  | .opc => txt "OPC"

/-- How a B field's value is shown; a reserved value n is `B(n)` (R282). -/
def bText (b : Nat) : Text :=
  match bSourceOf b with
  | some r => sourceName r
  | none => txt "B(" ++ decimalText b ++ txt ")"

/-- How an ALU function of a B operand is shown: R271's spelling, and of its two spellings of a sum, an AND or an OR the one with
H first (DESIGN CHOICE, log entry 16); an undefined code is `ALU(0xNN)` (R282, with lower-case
digits: log entry 16). -/
def exprText (f : AluFn) (b : Text) : Text :=
  match f with
  | .h => txt "H"
  | .b => b
  | .notH => txt "~H"
  | .notB => txt "~" ++ b
  | .hPlusB => txt "H + " ++ b
  | .hPlusBPlus1 => txt "H + " ++ b ++ txt " + 1"
  | .hPlus1 => txt "H + 1"
  | .bPlus1 => b ++ txt " + 1"
  | .bMinusH => b ++ txt " - H"
  | .bMinus1 => b ++ txt " - 1"
  | .negH => txt "-H"
  | .hAndB => txt "H AND " ++ b
  | .hOrB => txt "H OR " ++ b
  | .zero => txt "0"
  | .one => txt "1"
  | .minusOne => txt "-1"
  | .undefined c => txt "ALU(0x" ++ hexText 2 c.toNat ++ txt ")"

/-- The expression in brackets if it is shifted, then the shift suffixes, right shift first (R281, R282). -/
def shiftedText (e : Text) (sra1 sll8 : Bool) : Text :=
  (if sra1 || sll8 then txt "(" ++ e ++ txt ")" else e)
    ++ (if sra1 then txt " >> 1" else []) ++ (if sll8 then txt " << 8" else [])

/-- A tag, if it is set. -/
def tagText (set : Bool) (t : String) : Text := if set then txt t else []

/-- An address: 0x and three digits (R282). -/
def addrText (a : Nat) : Text := txt "0x" ++ hexText 3 a

/-- The two-way clause of a conditional (R281): the true target is ADDR with bit 8 set. -/
def ifText (cond : String) (a : Nat) : Text :=
  txt "if (" ++ txt cond ++ txt ") goto " ++ addrText (a ||| 0x100) ++ txt "; else goto " ++ addrText a ++ txt ";"

/-- The branch clause (R281); more than one modifier is shown in brackets (R282). -/
def branchText (jamz jamn jmpc : Bool) (a : Nat) : Text :=
  match jamz, jamn, jmpc with
  | false, false, false => txt "goto " ++ addrText a ++ txt ";"
  | true, false, false => ifText "Z" a
  | false, true, false => ifText "N" a
  | false, false, true => if a = 0 then txt "goto (MBR);" else txt "goto (MBR or " ++ addrText a ++ txt ");"
  | true, true, false => txt "[JAMZ JAMN] goto " ++ addrText a ++ txt ";"
  | true, false, true => txt "[JAMZ JMPC] goto " ++ addrText a ++ txt ";"
  | false, true, true => txt "[JAMN JMPC] goto " ++ addrText a ++ txt ";"
  | true, true, true => txt "[JAMZ JAMN JMPC] goto " ++ addrText a ++ txt ";"

/-- `disassemble(word)` (R281, R282). DESIGN CHOICE (log entry 19): where the expression is omitted, its shift suffix is
omitted with it, whatever SRA1 and SLL8 are. -/
def disassemble (w : ControlBits) : Text :=
  let b := field w 0 4
  let c := field w 7 9
  if b = 15 then txt "halt"
  else
    (cDests.filter fun r => getBit w (7 + r.cBit)).flatMap (fun r => regName r ++ txt " = ")
      ++ (if c ≠ 0 || getBit w 24 || getBit w 25 then
            shiftedText (exprText (aluFnOf (field w 16 6)) (bText b)) (getBit w 22) (getBit w 23) ++ txt "; "
          else [])
      ++ tagText (getBit w 6) "wr; " ++ tagText (getBit w 5) "rd; " ++ tagText (getBit w 4) "fetch; "
      ++ branchText (getBit w 24) (getBit w 25) (getBit w 26) (field w 27 9)

end Sys2Proof.Machine
end

