-- ==== Sys2Proof/Machine/Assembler.lean ====
section
/-! DEFINITION. The line encoder (46_microassembler.md R260 to R280): the operations of one microinstruction line, its
legality rules, and the control word its operations set. The source spelling of a line is outside the spec (R4), so a
line is given as its list of operations and labels are numbers (log entry 13). -/

namespace Sys2Proof.Machine

/-- A register an expression may name (R271): H, MAR, a bus-eligible register, or a name that is none of the nine
registers, MBR and MBRU. -/
inductive Atom where
  | h
  | mar
  | bus (r : BSource)
  | other (name : Text)
  deriving DecidableEq, Repr

/-- An expression of any shape, before its legality is checked (R271): registers and numbers under the operators, nested
as they may be. `-1` is the negation of the number 1. Shifts by any count and in any order are expressions too. -/
inductive Expr where
  | atom (x : Atom)
  | const (n : Nat)
  | not (x : Expr)
  | neg (x : Expr)
  | add (x y : Expr)
  | sub (x y : Expr)
  | and (x y : Expr)
  | or (x y : Expr)
  | shiftRight (x : Expr) (n : Nat)
  | shiftLeft (x : Expr) (n : Nat)
  deriving DecidableEq, Repr

/-- What a line may try to assign to (R268): a register, MBR or MBRU, or a name that is no register. -/
inductive Target where
  | reg (r : Reg)
  | mbr
  | mbru
  | other (name : Text)
  deriving DecidableEq, Repr

/-- A label's name. -/
abbrev Label := Nat

/-- The condition of a conditional (R276). -/
inductive Cond where
  | z | n
  deriving DecidableEq, Repr

/-- The operations of a line (R260). An assignment has one target or a chain of them (R270) and an expression. -/
inductive Operation where
  | read
  | write
  | fetch
  | goto (l : Label)
  | indirectGoto (c : Nat)
  | condIf (c : Cond) (t f : Label)
  | halt
  | assign (first : Target) (chain : List Target) (e : Expr)
  | empty
  deriving DecidableEq, Repr

/-- One source line (R260): an optional label with an optional pinned address, and its operations. A line with no
operation is a label-only line. -/
structure Line where
  label : Option (Label × Option Nat)
  ops : List Operation
  deriving DecidableEq, Repr

/-- What a rule of 46_microassembler.md or 47_placement_image.md is broken by: warnings (R261). -/
inductive Violation where
  | readWithWrite
  | secondFetch
  | secondTransfer
  | secondAssignment
  | notAlone
  | readOnlyTarget
  | unknownTarget
  | repeatedTarget
  | illegalExpression
  | indirectOutOfRange
  | noSuccessor
  | undefinedSymbol (l : Label)
  | pinOutOfRange
  | pinTwice
  | pinCollision
  | pairMismatch
  | pairUnplaceable
  deriving DecidableEq, Repr

/-- A warning with the line it is about. -/
structure Diagnostic where
  line : Nat
  what : Violation
  deriving DecidableEq, Repr

-- ## Legality of one line

/-- The control-transfer operations (R264). -/
def Operation.isTransfer : Operation → Bool
  | .read => false
  | .write => false
  | .fetch => false
  | .goto _ => true
  | .indirectGoto _ => true
  | .condIf _ _ _ => true
  | .halt => true
  | .assign _ _ _ => false
  | .empty => false

/-- Reads and writes, which exclude each other (R262). -/
def Operation.isReadWrite : Operation → Bool
  | .read => true
  | .write => true
  | .fetch => false
  | .goto _ => false
  | .indirectGoto _ => false
  | .condIf _ _ _ => false
  | .halt => false
  | .assign _ _ _ => false
  | .empty => false

/-- The targets an operation assigns. -/
def Operation.targets : Operation → List Target
  | .read => []
  | .write => []
  | .fetch => []
  | .goto _ => []
  | .indirectGoto _ => []
  | .condIf _ _ _ => []
  | .halt => []
  | .assign t ts _ => t :: ts
  | .empty => []

/-- The labels an operation refers to (R275, R276). -/
def Operation.labels : Operation → List Label
  | .read => []
  | .write => []
  | .fetch => []
  | .goto l => [l]
  | .indirectGoto _ => []
  | .condIf _ t f => [t, f]
  | .halt => []
  | .assign _ _ _ => []
  | .empty => []

/-- Whether an operation is an assignment. -/
def Operation.isAssign (o : Operation) : Bool := !o.targets.isEmpty

/-- The C-bus register a target names (R268). -/
def Target.reg? : Target → Option Reg
  | .reg r => some r
  | .mbr => none
  | .mbru => none
  | .other _ => none

/-- The rule a target breaks (R268): MBR and MBRU are read-only, and no other name is a target. -/
def Target.violation : Target → Option Violation
  | .reg _ => none
  | .mbr => some .readOnlyTarget
  | .mbru => some .readOnlyTarget
  | .other _ => some .unknownTarget

/-- A binary operation's B operand: exactly one operand is H and the other is a bus-eligible register (R271). -/
def binaryB : Expr → Expr → Option BSource
  | .atom .h, .atom (.bus r) => some r
  | .atom (.bus r), .atom .h => some r
  | _, _ => none

/-- The ALU function and B source an expression without a shift is encoded with: the table of R271. Forms without a B
source have B = 0. Every form outside the table is rejected. -/
def encodeUnshifted : Expr → Option (AluFn × BSource)
  | .atom .h => some (.h, .mdr)
  | .atom (.bus r) => some (.b, r)
  | .not (.atom .h) => some (.notH, .mdr)
  | .not (.atom (.bus r)) => some (.notB, r)
  | .add (.add x y) (.const 1) => (binaryB x y).map fun r => (.hPlusBPlus1, r)
  | .add (.atom .h) (.const 1) => some (.hPlus1, .mdr)
  | .add (.atom (.bus r)) (.const 1) => some (.bPlus1, r)
  | .add x y => (binaryB x y).map fun r => (.hPlusB, r)
  | .sub (.atom (.bus r)) (.atom .h) => some (.bMinusH, r)
  | .sub (.atom (.bus r)) (.const 1) => some (.bMinus1, r)
  | .neg (.atom .h) => some (.negH, .mdr)
  | .and x y => (binaryB x y).map fun r => (.hAndB, r)
  | .or x y => (binaryB x y).map fun r => (.hOrB, r)
  | .const 0 => some (.zero, .mdr)
  | .const 1 => some (.one, .mdr)
  | .neg (.const 1) => some (.minusOne, .mdr)
  | _ => none

/-- What an assignment's expression puts into the word: the ALU function, the B source and the two shift bits. -/
structure ExprCode where
  alu : AluFn
  bsrc : BSource
  sra1 : Bool
  sll8 : Bool
  deriving DecidableEq, Repr

/-- The code of an unshifted expression under the given shifts. -/
def shiftedCode (e : Expr) (sra1 sll8 : Bool) : Option ExprCode :=
  (encodeUnshifted e).map fun c => ⟨c.1, c.2, sra1, sll8⟩

/-- The code of an expression (R271): `(e) >> 1`, `(e) << 8`, or both with the right shift first, over a form of the
table; none for an expression the rule rejects. -/
def encodeExpr : Expr → Option ExprCode
  | .shiftLeft (.shiftRight e 1) 8 => shiftedCode e true true
  | .shiftRight e 1 => shiftedCode e true false
  | .shiftLeft e 8 => shiftedCode e false true
  | e => shiftedCode e false false

/-- Whether an operation's own form is legal: the expression (R271) and the range of an indirect goto (R277). -/
def Operation.formViolation : Operation → Option Violation
  | .read => none
  | .write => none
  | .fetch => none
  | .goto _ => none
  | .indirectGoto c => if c < 512 then none else some .indirectOutOfRange
  | .condIf _ _ _ => none
  | .halt => none
  | .assign _ _ e => if (encodeExpr e).isSome then none else some .illegalExpression
  | .empty => none

/-- Every rule of R262 to R271 that a line's operations break. -/
def lineViolations (ops : List Operation) : List Violation :=
  let targets := ops.flatMap Operation.targets
  (if 2 ≤ ops.countP Operation.isReadWrite then [.readWithWrite] else [])
    ++ (if 2 ≤ ops.count .fetch then [.secondFetch] else [])
    ++ (if 2 ≤ ops.countP Operation.isTransfer then [.secondTransfer] else [])
    ++ (if 2 ≤ ops.countP Operation.isAssign then [.secondAssignment] else [])
    ++ (if (ops.contains .empty || ops.contains .halt) && decide (2 ≤ ops.length) then [.notAlone] else [])
    ++ targets.filterMap Target.violation
    ++ (if targets.Nodup then [] else [.repeatedTarget])
    ++ ops.filterMap Operation.formViolation

-- ## The word of one line

/-- An assignment's bits: a C bit for each target (R270), and the ALU field, B field and shift bits of the expression
(R271). -/
def encodeAssign (w : ControlBits) (targets : List Target) (e : Expr) : ControlBits :=
  let w := (targets.filterMap Target.reg?).foldl (fun w r => setBit w (7 + r.cBit)) w
  match encodeExpr e with
  | some c =>
    let w := setBits (setBits w c.alu.code 16 6) c.bsrc.code 0 4
    let w := if c.sra1 then setBit w 22 else w
    if c.sll8 then setBit w 23 else w
  | none => w

/-- The bits an operation sets (R267, R270 to R272, R275 to R277). The address of a goto, of a conditional and of a
fall-through is written after placement (R314). -/
def encodeOperation (w : ControlBits) : Operation → ControlBits
  | .read => setBit w 5
  | .write => setBit w 6
  | .fetch => setBit w 4
  | .goto _ => w
  | .indirectGoto c => setBits (setBit w 26) c 27 9
  | .condIf .z _ _ => setBit w 24
  | .condIf .n _ _ => setBit w 25
  | .halt => setBits w 15 0 4
  | .assign t ts e => encodeAssign w (t :: ts) e
  | .empty => w

/-- The word of a line before its address is resolved: the operations' bits over the cleared word (R260, R273, R274). -/
def lineWord (ops : List Operation) : ControlBits := ops.foldl encodeOperation clearWord

/-- The word with its address field written (R314). -/
def withAddress (w : ControlBits) (a : Nat) : ControlBits := setBits w a 27 9

/-- The operations whose ADDR no successor is written into: an indirect goto has its own (R277), and a halt word has no
other bit than its B field (R267). -/
def Operation.fixesAddress : Operation → Bool
  | .read => false
  | .write => false
  | .fetch => false
  | .goto _ => false
  | .indirectGoto _ => true
  | .condIf _ _ _ => false
  | .halt => true
  | .assign _ _ _ => false
  | .empty => false

/-- The word of a line with the address of its successor, if it has one, in the address field (R275 to R278, R314). -/
def addressedWord (ops : List Operation) (successor : Option Nat) : ControlBits :=
  if ops.any Operation.fixesAddress then lineWord ops
  else match successor with
    | some a => withAddress (lineWord ops) a
    | none => lineWord ops

/-- The encoder on one line whose successor's address is given (R260): the rules the line breaks, or its word, or no word
at all for a label-only line. -/
def encodeLine (ops : List Operation) (successor : Option Nat) : Except (List Violation) (Option ControlBits) :=
  if lineViolations ops = [] then .ok (if ops = [] then none else some (addressedWord ops successor))
  else .error (lineViolations ops)

end Sys2Proof.Machine
end

