-- ==== Sys2Proof/Machine/Placement.lean ====
section
/-! DEFINITION. Control-store placement (47_placement_image.md R310 to R316) and the assembly of a whole program. Lines
are numbered from 0 in source order. -/

namespace Sys2Proof.Machine

/-- A microcode program: its lines in source order. -/
abbrev Program := List Line

/-- What stops an assembly at once (R312, R313). -/
inductive Fatal where
  | pairsExhausted
  | storeExhausted
  deriving DecidableEq, Repr

/-- Why a program gives no image: warnings suppress the output (R261), a fatal error ends the assembly, and a program
with no instruction-bearing line has no entry (log entry 15). -/
inductive AssemblyFailure where
  | warnings (ds : List Diagnostic)
  | fatal (f : Fatal)
  | noInstructions
  deriving DecidableEq, Repr

-- ## Lines and labels

/-- Line i holds at least one operation. -/
def bearing (p : Program) (i : Nat) : Bool :=
  match p[i]? with
  | some l => !l.ops.isEmpty
  | none => false

/-- The operations of line i. -/
def opsAt (p : Program) (i : Nat) : List Operation :=
  match p[i]? with
  | some l => l.ops
  | none => []

/-- The first instruction-bearing line at or after line i (R260, R311). -/
def nextBearing (p : Program) (i : Nat) : Option Nat :=
  (List.range p.length).find? fun j => decide (i ≤ j) && bearing p j

/-- Line i carries label l. -/
def hasLabel (p : Program) (l : Label) (i : Nat) : Bool :=
  match p[i]? with
  | some ⟨some (l', _), _⟩ => decide (l' = l)
  | _ => false

/-- The label line i carries, if it has one. -/
def labelAt (p : Program) (i : Nat) : Option Label :=
  match p[i]? with
  | some ln => ln.label.map Prod.fst
  | none => none

/-- The line a label names: the first instruction-bearing line at or after the line that carries it. The first line
that carries it counts (log entry 14). -/
def owner (p : Program) (l : Label) : Option Nat :=
  ((List.range p.length).find? (hasLabel p l)).bind (nextBearing p)

/-- The pinned address of line i's label, if it has one. -/
def pinAt (p : Program) (i : Nat) : Option Nat :=
  match p[i]? with
  | some ⟨some (_, pin), _⟩ => pin
  | _ => none

/-- The targets of line i's conditional, if it has one. DESIGN CHOICE (log entry 21): of a line that illegally has two (R264) it is
the first, and the pair of the second is not placed. -/
def condAt (p : Program) (i : Nat) : Option (Label × Label) :=
  (opsAt p i).findSome? fun o => match o with
    | .condIf _ t f => some (t, f)
    | _ => none

-- ## The placement

/-- A placement under way: (line, slot) pairs, the search cursor of R312 and R313, and the warnings so far. -/
structure Placement where
  placed : List (Nat × Nat)
  cursor : Nat
  warnings : List Diagnostic
  deriving DecidableEq, Repr

/-- The slot of a line. -/
def Placement.slotOf (pl : Placement) (i : Nat) : Option Nat := (pl.placed.find? fun c => decide (c.1 = i)).map Prod.snd

/-- A slot that no line has. -/
def Placement.free (pl : Placement) (a : Nat) : Bool := pl.placed.all fun c => decide (c.2 ≠ a)

/-- A line put in a slot. -/
def Placement.place (pl : Placement) (i a : Nat) : Placement := { pl with placed := (i, a) :: pl.placed }

/-- A warning added. -/
def Placement.warn (pl : Placement) (i : Nat) (v : Violation) : Placement :=
  { pl with warnings := pl.warnings ++ [⟨i, v⟩] }

/-- The least index from lo on, among the next n, that passes a test. -/
def leastFrom (ok : Nat → Bool) : Nat → Nat → Option Nat
  | _, 0 => none
  | lo, n + 1 => if ok lo then some lo else leastFrom ok (lo + 1) n

/-- The absolute pass at line i (R311). DESIGN CHOICE (log entry 14): the pin of a label that an earlier line carries too
is applied like any other, and places the line that this occurrence names, although references go to the first one. A label
that names no line places nothing here and is reported with the other unbound labels. -/
def absoluteStep (p : Program) (pl : Placement) (i : Nat) : Placement :=
  match pinAt p i with
  | none => pl
  | some a =>
    if 512 ≤ a then pl.warn i .pinOutOfRange
    else if (List.range i).any (fun j => decide (pinAt p j = some a)) then pl.warn i .pinTwice
    else match nextBearing p i with
      | none => pl
      | some j => if (pl.slotOf j).isSome || !pl.free a then pl.warn i .pinCollision else pl.place j a

/-- The absolute pass (R311), with the store empty and the cursor at 0. -/
def absolutePass (p : Program) : Placement :=
  (List.range p.length).foldl (absoluteStep p) { placed := [], cursor := 0, warnings := [] }

/-- The paired-branch pass at a conditional line i with the target lines t and f (R312). -/
def pairStep (pl : Placement) (i t f : Nat) : Except Fatal Placement :=
  match pl.slotOf t, pl.slotOf f with
  | some at_, some af => .ok (if at_ = af + 0x100 then pl else pl.warn i .pairMismatch)
  | some at_, none =>
    .ok (if at_ < 0x100 || !pl.free (at_ - 0x100) then pl.warn i .pairUnplaceable else pl.place f (at_ - 0x100))
  | none, some af =>
    .ok (if 0x100 ≤ af || !pl.free (af + 0x100) then pl.warn i .pairUnplaceable else pl.place t (af + 0x100))
  | none, none =>
    if t = f then .ok (pl.warn i .pairMismatch)
    else match leastFrom (fun k => pl.free k && pl.free (k + 256)) pl.cursor (256 - pl.cursor) with
      | none => .error .pairsExhausted
      | some k => .ok { (pl.place f k).place t (k + 256) with cursor := k + 1 }

/-- The paired-branch pass at line i: nothing for a line that is no conditional, and nothing for one with a label that has no
line, which is reported with the line's other references (R314, `unboundReferences`). -/
def pairedStep (p : Program) (pl : Placement) (i : Nat) : Except Fatal Placement :=
  match condAt p i with
  | none => .ok pl
  | some (lt, lf) =>
    match owner p lt, owner p lf with
    | some t, some f => pairStep pl i t f
    | none, _ => .ok pl
    | some _, none => .ok pl

/-- The remaining pass at line i (R313). -/
def remainingStep (p : Program) (pl : Placement) (i : Nat) : Except Fatal Placement :=
  if bearing p i && (pl.slotOf i).isNone then
    match leastFrom pl.free pl.cursor (512 - pl.cursor) with
    | none => .error .storeExhausted
    | some a => .ok { pl.place i a with cursor := a + 1 }
  else .ok pl

/-- The three passes in their fixed order (R310). -/
def placeProgram (p : Program) : Except Fatal Placement := do
  let pl ← (List.range p.length).foldlM (pairedStep p) (absolutePass p)
  (List.range p.length).foldlM (remainingStep p) pl

-- ## Resolution and the image

/-- A line's control transfer, if it has one. DESIGN CHOICE (log entry 21): of a line that illegally has two (R264) it is the
first, and the second's address is written nowhere. -/
def transferAt (p : Program) (i : Nat) : Option Operation := (opsAt p i).find? Operation.isTransfer

/-- What is written into line i's address field (R275 to R279, R314): the slot of a line, nothing (a transfer without a label, or
a label without a line, which `unboundReferences` reports), or the broken rule of a line that falls through to no line. -/
def successorAt (p : Program) (pl : Placement) (i : Nat) : Except Violation (Option Nat) :=
  match transferAt p i with
  | some (.goto l) => .ok ((owner p l).bind pl.slotOf)
  | some (.condIf _ _ f) => .ok ((owner p f).bind pl.slotOf)
  | some _ => .ok none
  | none =>
    match (nextBearing p (i + 1)).bind pl.slotOf with
    | some a => .ok (some a)
    | none => .error .noSuccessor

/-- The labels line i refers to, in any of its operations, that have no line (R314). -/
def unboundReferences (p : Program) (i : Nat) : List Diagnostic :=
  (((opsAt p i).flatMap Operation.labels).filter fun l => (owner p l).isNone).map fun l => ⟨i, .undefinedSymbol l⟩

/-- Every warning of one line: its own rules, its references and its successor's. -/
def lineDiagnostics (p : Program) (pl : Placement) (i : Nat) : List Diagnostic :=
  (lineViolations (opsAt p i)).map (Diagnostic.mk i) ++ unboundReferences p i ++
    (match successorAt p pl i with
      | .ok _ => []
      | .error v => [⟨i, v⟩])

/-- The labels that name no line, whether a line refers to them or not (R314): those of lines with no instruction-bearing
line at or after them. -/
def unboundLabels (p : Program) : List Diagnostic :=
  (List.range p.length).filterMap fun i =>
    if (nextBearing p i).isNone then (labelAt p i).map fun l => ⟨i, .undefinedSymbol l⟩ else none

/-- The finished word of line i. -/
def finishedWord (p : Program) (pl : Placement) (i : Nat) : ControlBits :=
  match successorAt p pl i with
  | .ok a => addressedWord (opsAt p i) a
  | .error _ => addressedWord (opsAt p i) none

/-- The instruction-bearing lines of a program. -/
def bearingLines (p : Program) : List Nat := (List.range p.length).filter (bearing p)

/-- The control store of a placed program; a slot no line has stays empty (R317). -/
def buildStore (p : Program) (pl : Placement) : ControlStore :=
  (bearingLines p).foldl (fun cs i => match pl.slotOf i with
    | some a => Store.write cs a (finishedWord p pl i)
    | none => cs) []

/-- Assembling a program (R260 to R316): an image if no rule is broken. The entry is the slot of the first
instruction-bearing line (R316). DESIGN CHOICE (log entry 18): a fatal exhaustion is reported alone, without the warnings
found by then. -/
def assemble (p : Program) : Except AssemblyFailure ControlImage :=
  match placeProgram p with
  | .error f => .error (.fatal f)
  | .ok pl =>
    let ds := pl.warnings ++ unboundLabels p ++ (bearingLines p).flatMap (lineDiagnostics p pl)
    if ds = [] then
      match (nextBearing p 0).bind pl.slotOf with
      | some e => .ok { entry := BitVec.ofNat 9 e, store := buildStore p pl }
      | none => .error .noInstructions
    else .error (.warnings ds)

end Sys2Proof.Machine
end

