-- ==== Sys2Proof/Machine/Image.lean ====
section
/-! DEFINITION. The control-store image as text: writing it (47_placement_image.md R317), loading it (R318, R319), and
constructing the machine from it (70_reset_and_hazards.md R430). -/

namespace Sys2Proof.Machine

/-- Why an image does not load (R319): no machine is constructed. -/
inductive LoadError where
  | noEntryLine
  | badEntry
  | entryOutOfRange (value : Nat)
  | tooFewLines (found : Nat)
  | badWord (slot : Nat)
  deriving DecidableEq, Repr

-- ## Writing

/-- The line of one slot (R317). -/
def wordLine (order : HexOrder) (slot : Nat) (w : ControlBits) : Text :=
  hexText 3 slot ++ txt ":  " ++ encodeText order w ++ txt "  " ++ disassemble w ++ ['\n']

/-- The image's text with the given number of slots. -/
def imageText (slots : Nat) (order : HexOrder) (img : ControlImage) : Text :=
  txt "entry: " ++ hexText 3 img.entry.toNat ++ ['\n']
    ++ (List.range slots).flatMap fun j => wordLine order j (Store.read img.store j)

/-- The image's text (R317): the entry line and exactly 512 word lines. -/
def emitImage (order : HexOrder) (img : ControlImage) : Text := imageText 512 order img

-- ## Loading

/-- The lines of a text after the characters already read of the first one, which are held in reverse order. -/
def linesFrom : Text → Text → List Text
  | read, [] => if read = [] then [] else [read.reverse]
  | read, c :: rest => if c = '\n' then read.reverse :: linesFrom [] rest else linesFrom (c :: read) rest

/-- The lines of a text: each ends at a newline or at the end of the text, and no line follows a final newline. -/
def linesOf (t : Text) : List Text := linesFrom [] t

/-- The value of an entry line: `entry: ` and hexadecimal digits, at least one (R317, R319, log entry 17). -/
def parseEntry (line : Text) : Except LoadError Slot :=
  if (txt "entry: ").isPrefixOf line then
    let digits := line.drop 7
    if digits = [] then .error .badEntry
    else match parseHex digits with
      | none => .error .badEntry
      | some v => if v < 512 then .ok (BitVec.ofNat 9 v) else .error (.entryOutOfRange v)
  else .error .noEntryLine

/-- The word field of a word line: what stands between the first run of spaces and the next space (log entry 17). The
address column before it and the disassembly after it are not looked at (R318). -/
def wordField (line : Text) : Text :=
  ((line.dropWhile fun c => decide (c ≠ ' ')).dropWhile fun c => decide (c = ' ')).takeWhile fun c => decide (c ≠ ' ')

/-- The words of the first lines, slot by slot, written into a store (R318). -/
def loadWords (order : HexOrder) : Nat → Nat → List Text → ControlStore → Except LoadError ControlStore
  | _, 0, _, cs => .ok cs
  | slot, _ + 1, [], _ => .error (.tooFewLines slot)
  | slot, n + 1, line :: rest, cs =>
    match decodeText order (wordField line) with
    | none => .error (.badWord slot)
    | some w => loadWords order (slot + 1) n rest (Store.write cs slot w)

/-- Loading an image of the given number of slots: the entry line, then one word line a slot; later lines are ignored. -/
def loadSlots (slots : Nat) (order : HexOrder) (t : Text) : Except LoadError ControlImage :=
  match linesOf t with
  | [] => .error .noEntryLine
  | first :: rest =>
    match parseEntry first with
    | .error e => .error e
    | .ok entry =>
      match loadWords order 0 slots rest [] with
      | .error e => .error e
      | .ok cs => .ok { entry := entry, store := cs }

/-- Loading a control-store image (R318, R319). -/
def loadImage (order : HexOrder) (t : Text) : Except LoadError ControlImage := loadSlots 512 order t

/-- Constructing the machine from an image's text (R430): a load failure constructs no machine. -/
def constructFromText (p : Params) (t : Text) (initRegs : Regs) (initMbr : Byte) (initMem : Memory) :
    Except LoadError State :=
  match loadImage p.hexOrder t with
  | .error e => .error e
  | .ok img => .ok (State.construct p img initRegs initMbr initMem)

end Sys2Proof.Machine
end

