-- ==== Sys2Proof/Machine/Run.lean ====
section
/-! DEFINITION. A run of the machine (40_cycle.md R126): the step as a function on states, where a fault leaves the
faulted state of R401, and the three ways a run stands. R126 defines a run from the state at construction only; these
definitions take any start state (DESIGN CHOICE, log entry 20). -/

namespace Sys2Proof.Machine

/-- The state after an outcome of a step from s: a fault leaves s with its record in the run status (R401, R405), and a
refusal, which no instruction of this model answers, leaves s. -/
def settle (s : State) : Host.Outcome State Fault Refusal → State
  | .next t => t
  | .fault f => s.afterFault f
  | .refused _ => s

/-- The next state of a run. -/
def runStep (s : State) : State := settle s (step s)

/-- The state after k steps of a run. -/
def runSteps : Nat → State → State
  | 0, s => s
  | k + 1, s => runSteps k (runStep s)

/-- R126: the run from s ends normally after executing exactly k words: the k words before are executed by a running
machine, and then the word at MPC is a halt word. False for every k where s has already stopped (log entry 20). -/
def endsNormallyAfter : Nat → State → Bool
  | 0, s => decide (s.status = .running) && !s.active
  | k + 1, s => decide (s.status = .running) && s.active && endsNormallyAfter k (runStep s)

/-- Whether an outcome is a fault. -/
def isFault : Host.Outcome State Fault Refusal → Bool
  | .next _ => false
  | .fault _ => true
  | .refused _ => false

/-- R126: the run from s ends in a fault raised by the word after exactly k executed words. False for every k where
s has already stopped (log entry 20). -/
def endsInFaultAfter : Nat → State → Bool
  | 0, s => decide (s.status = .running) && isFault (step s)
  | k + 1, s => decide (s.status = .running) && s.active && endsInFaultAfter k (runStep s)

/-- R126: the run from s is a hang if it never ends in either way. DESIGN CHOICE (log entry 20): R126 speaks of runs from the
state at construction, which is running; of a start state that is already halted or faulted this holds too, since no end of
its run is still to come, and says nothing about the machine. -/
def hangs (s : State) : Prop := ∀ k, endsNormallyAfter k s = false ∧ endsInFaultAfter k s = false

end Sys2Proof.Machine
end

