-- ==== Sys2Proof/Safety.lean ====
section
/-! DEFINITION. What counts as a safe run, in the terms claims use: the invariant of the stores, and the absence of a
fault and of an out-of-range access. -/

namespace Sys2Proof.Safety

open Sys2Proof.Machine

/-- The invariant of the machine's two stores: each is in its canonical form, the memory lists only bytes of the
buffer (R28), and the control store only its 512 slots (R25). -/
def storesWellFormed (s : State) : Bool :=
  Store.wf s.mem && Store.below s.params.memBytes s.mem && Store.wf s.cs && Store.below 512 s.cs

/-- The machine has not faulted. -/
def notFaulted (s : State) : Bool :=
  match s.status with
  | .running => true
  | .halted => true
  | .faulted _ => false

/-- No out-of-range access has happened, which is what R65's flag is for. -/
def inRange (s : State) : Bool := !s.oorSeen

/-- A state a claim about a safe run asks for. -/
def safe (s : State) : Bool := storesWellFormed s && notFaulted s && inRange s

/-- Every state of the next k steps is safe. -/
def safeFor : Nat → State → Bool
  | 0, s => safe s
  | k + 1, s => safe s && safeFor k (runStep s)

end Sys2Proof.Safety
end

