-- ==== Sys2Proof/WellFormed.lean ====
section
/-! DEFINITION. Which instructions a decoder can give. -/

namespace Sys2Proof

/-- An ALU function that is called undefined has a code outside R86's table. -/
def AluFn.wellFormed : AluFn → Bool
  | .undefined c => decide (aluFnOf c.toNat = .undefined c)
  | _ => true

/-- The ALU check of an instruction. -/
def Instr.aluWellFormed (i : Instr) : Bool :=
  match i.control with
  | .halt => true
  | .reserved _ => true
  | .micro m => m.alu.wellFormed

/-- The row check: the operand has the row's own field value, and this is the row the word is filed under
(log entry 1). -/
def Instr.rowWellFormed (i : Instr) : Bool := decide (rowOf i.control = i)

/-- An instruction is well-formed if it passes both checks. -/
def Instr.wellFormed (i : Instr) : Bool := i.aluWellFormed && i.rowWellFormed

end Sys2Proof
end

