-- ==== Sys2Proof/Certificates/Slice0/Obligations.lean ====
section
/-! DEFINITION. The statements for the provers, from the spec's numbered rules. -/

namespace Sys2Proof.Claims

open Sys2Proof.Machine

/-- The instruction answers a next state, and that state has the property. -/
def Completes (i : Instr) (s : State) (P : State → Prop) : Prop := ∃ t, exec i s = .next t ∧ P t

/-- The nine registers after a cycle whose destinations are those of `has` and whose result is r: every destination holds
r, MDR otherwise holds a word that landed (R161), and every other register is unchanged (R180). -/
def RegistersAre (has : Reg → Bool) (r : Word) (s t : State) : Prop :=
  ∀ x, t.reg x = if has x = true then r
    else if x = .mdr ∧ s.pendRead = true then s.memReadWord (s.reg .mar) else s.reg x

/-- The value N and Z are taken from (R222): r, or f under pre_shift. -/
def tested (m : Micro) (s : State) : Word :=
  match s.params.flagTap with
  | .postShift => result m s
  | .preShift => aluOutput m s

/-- MBR after step 5 (R164). -/
def landedByte (s : State) : Byte := if s.pendFetch = true then s.memReadByte (s.reg .pc) else s.mbr

/-- Every byte of memory after a cycle with the write bit wr, from its final MAR and MDR: a write in range sets the four
bytes of word MAR, and no other byte changes (R55, R162). -/
def MemoryIs (wr : Bool) (s t : State) : Prop :=
  ∀ a, t.byteAt a
    = if wr = true ∧ 4 * (t.reg .mar).toNat + 4 ≤ s.params.memBytes
          ∧ 4 * (t.reg .mar).toNat ≤ a ∧ a < 4 * (t.reg .mar).toNat + 4
      then splitByte s.params.byteOrder (t.reg .mdr) (a - 4 * (t.reg .mar).toNat) else s.byteAt a

/-- Everything one cycle does and everything it leaves alone (R122). -/
structure CycleEffect (m : Micro) (s t : State) : Prop where
  registers : RegistersAre m.dest.has (result m s) s t
  instructionByte : t.mbr = landedByte s
  pendingRead : t.pendRead = m.rd
  pendingFetch : t.pendFetch = m.fetch
  memory : MemoryIs m.wr s t
  nextWord : t.mpc = m.addr
    ||| (if (m.jamz = true ∧ tested m s = 0#32) ∨ (m.jamn = true ∧ (tested m s).toInt < 0) then 0x100#9 else 0#9)
    ||| (if m.jmpc = true then (landedByte s).setWidth 9 else 0#9)
  outOfRange : t.oorSeen = true ↔ (s.oorSeen = true
    ∨ (s.pendRead = true ∧ ¬ 4 * (s.reg .mar).toNat + 4 ≤ s.params.memBytes)
    ∨ (s.pendFetch = true ∧ ¬ (s.reg .pc).toNat < s.params.memBytes)
    ∨ (m.wr = true ∧ ¬ 4 * (t.reg .mar).toNat + 4 ≤ s.params.memBytes))
  controlStore : t.cs = s.cs
  runStatus : t.status = s.status
  parameters : t.params = s.params
  freeValues : t.draws = if (∃ c, m.alu = .undefined c) then s.draws + 1 else s.draws

/-- The value of a register an expression names; a name that is no register has none. -/
def atomValue (s : State) : Atom → Option Word
  | .h => some (s.reg .h)
  | .mar => some (s.reg .mar)
  | .bus r => some (s.bInput r)
  | .other _ => none

/-- What an expression says, read as it is written. -/
def exprValue (s : State) : Expr → Option Word
  | .atom x => atomValue s x
  | .const n => some (BitVec.ofNat 32 n)
  | .not x => (exprValue s x).map fun a => ~~~ a
  | .neg x => (exprValue s x).map fun a => - a
  | .add x y => (exprValue s x).bind fun a => (exprValue s y).map fun b => a + b
  | .sub x y => (exprValue s x).bind fun a => (exprValue s y).map fun b => a - b
  | .and x y => (exprValue s x).bind fun a => (exprValue s y).map fun b => a &&& b
  | .or x y => (exprValue s x).bind fun a => (exprValue s y).map fun b => a ||| b
  | .shiftRight x n => (exprValue s x).map fun a => a.sshiftRight n
  | .shiftLeft x n => (exprValue s x).map fun a : Word => a <<< n

/-- The expression names MAR or a register that is none of the nine, MBR and MBRU. -/
def namesForeignRegister : Expr → Prop
  | .atom .h => False
  | .atom .mar => True
  | .atom (.bus _) => False
  | .atom (.other _) => True
  | .const _ => False
  | .not x => namesForeignRegister x
  | .neg x => namesForeignRegister x
  | .add x y => namesForeignRegister x ∨ namesForeignRegister y
  | .sub x y => namesForeignRegister x ∨ namesForeignRegister y
  | .and x y => namesForeignRegister x ∨ namesForeignRegister y
  | .or x y => namesForeignRegister x ∨ namesForeignRegister y
  | .shiftRight x _ => namesForeignRegister x
  | .shiftLeft x _ => namesForeignRegister x

/-- The expression under the shifts a line may give it, right shift first (R271, R220). -/
def underShifts (sra1 sll8 : Bool) (e : Expr) : Expr :=
  match sra1, sll8 with
  | false, false => e
  | true, false => .shiftRight e 1
  | false, true => .shiftLeft e 8
  | true, true => .shiftLeft (.shiftRight e 1) 8

/-- The table of R271, row by row: an accepted form, its ALU field and its B field. -/
def tableRow (e : Expr) (alu b : Nat) : Prop :=
  (e = .atom .h ∧ alu = 0x18 ∧ b = 0)
    ∨ (∃ r, e = .atom (.bus r) ∧ alu = 0x14 ∧ b = r.code)
    ∨ (e = .not (.atom .h) ∧ alu = 0x1A ∧ b = 0)
    ∨ (∃ r, e = .not (.atom (.bus r)) ∧ alu = 0x2C ∧ b = r.code)
    ∨ (∃ r, (e = .add (.atom .h) (.atom (.bus r)) ∨ e = .add (.atom (.bus r)) (.atom .h)) ∧ alu = 0x3C ∧ b = r.code)
    ∨ (∃ r, (e = .add (.add (.atom .h) (.atom (.bus r))) (.const 1) ∨ e = .add (.add (.atom (.bus r)) (.atom .h)) (.const 1))
        ∧ alu = 0x3D ∧ b = r.code)
    ∨ (e = .add (.atom .h) (.const 1) ∧ alu = 0x39 ∧ b = 0)
    ∨ (∃ r, e = .add (.atom (.bus r)) (.const 1) ∧ alu = 0x35 ∧ b = r.code)
    ∨ (∃ r, e = .sub (.atom (.bus r)) (.atom .h) ∧ alu = 0x3F ∧ b = r.code)
    ∨ (∃ r, e = .sub (.atom (.bus r)) (.const 1) ∧ alu = 0x37 ∧ b = r.code)
    ∨ (e = .neg (.atom .h) ∧ alu = 0x3B ∧ b = 0)
    ∨ (∃ r, (e = .and (.atom .h) (.atom (.bus r)) ∨ e = .and (.atom (.bus r)) (.atom .h)) ∧ alu = 0x0C ∧ b = r.code)
    ∨ (∃ r, (e = .or (.atom .h) (.atom (.bus r)) ∨ e = .or (.atom (.bus r)) (.atom .h)) ∧ alu = 0x1C ∧ b = r.code)
    ∨ (e = .const 0 ∧ alu = 0x10 ∧ b = 0)
    ∨ (e = .const 1 ∧ alu = 0x11 ∧ b = 0)
    ∨ (e = .neg (.const 1) ∧ alu = 0x12 ∧ b = 0)

/-- The control-transfer operations (R264). -/
def transfers (o : Operation) : Prop :=
  (∃ l, o = .goto l) ∨ (∃ c, o = .indirectGoto c) ∨ (∃ c t f, o = .condIf c t f) ∨ o = .halt

/-- An assignment (R264). -/
def assigns (o : Operation) : Prop := ∃ t ts e, o = .assign t ts e

/-- The rules of 46_microassembler.md section 2 for one line's operations. -/
structure LegalLine (ops : List Operation) : Prop where
  /-- R262. -/
  readOrWrite : ops.count .read + ops.count .write ≤ 1
  /-- R263. -/
  oneFetch : ops.count .fetch ≤ 1
  /-- R264: no two operations of the line are transfers. -/
  oneTransfer : ops.Pairwise fun x y => ¬ (transfers x ∧ transfers y)
  /-- R264: no two operations of the line are assignments. -/
  oneAssignment : ops.Pairwise fun x y => ¬ (assigns x ∧ assigns y)
  /-- R265. -/
  alone : .empty ∈ ops ∨ .halt ∈ ops → ops.length = 1
  /-- R268. -/
  writableTargets : ∀ t ts e, Operation.assign t ts e ∈ ops → ∀ x ∈ t :: ts, ∃ r, x = .reg r
  /-- R269. -/
  distinctTargets : ∀ t ts e, Operation.assign t ts e ∈ ops → (t :: ts).Nodup
  /-- R271; the accepted forms are those of TheEncoderAcceptsExactlyTheTableOfExpressions. -/
  legalExpression : ∀ t ts e, Operation.assign t ts e ∈ ops → ∃ c, encodeExpr e = some c
  /-- R277. -/
  indirectInRange : ∀ c, Operation.indirectGoto c ∈ ops → c < 512

/-- The number that hexadecimal digits of either case spell, most significant first. -/
def hexNumber (t : Text) : Nat := t.foldl (fun n c => 16 * n + (txt "0123456789abcdef").idxOf c.toLower) 0

/-- Some character of a text is no hexadecimal digit, or the text is empty. -/
def notAHexNumber (t : Text) : Prop := t = [] ∨ ∃ c ∈ t, c ∉ txt "0123456789abcdefABCDEF"

/-- The state once the run has halted: only the run status differs (log entry 8). -/
def haltedState (s : State) : State := { s with status := .halted }

end Sys2Proof.Claims

open Sys2Proof Sys2Proof.Machine Sys2Proof.Claims

/-- R31 and R430: the values when the machine is constructed, whatever the image, INIT_REGS and INIT_MEM are. The pending flags
rest on the decision D27 and the run status and OOR_SEEN on D17, both of 92_eei_decisions.md. The last clause is R431: the first
word executed is that of the slot ENTRY. -/
def Obligations.ConstructionGivesTheStatedValues : Prop :=
  ∀ (p : Params) (img : ControlImage) (g : Regs) (b : Byte) (mem : Memory),
    let s := State.construct p img g b mem
    (∀ x, s.reg x = g.get x) ∧ s.mbr = b ∧ s.mpc = img.entry ∧ s.cs = img.store ∧ s.mem = mem
      ∧ s.pendRead = false ∧ s.pendFetch = false ∧ s.status = .running ∧ s.oorSeen = false ∧ s.params = p
      ∧ s.currentWord = Store.read img.store img.entry.toNat

/-- The invariant of Safety.lean holds at State.reset, whose empty memory and control store are the model's choice (log entries 6
and 7). -/
def Obligations.ResetStoresAreWellFormed : Prop :=
  Safety.storesWellFormed State.reset = true

/-- For every state, reachable or not: a step keeps the memory and the control store canonical, the memory inside the buffer of
MEM_BYTES bytes (R28, R55) and the control store inside its 512 slots (R25). -/
def Obligations.EveryStepKeepsTheStoresWellFormed : Prop :=
  ∀ s t : State, Safety.storesWellFormed s = true → step s = .next t → Safety.storesWellFormed t = true

/-- The control store is immutable during execution (R8, R25), and so are the implementation parameters (R5). -/
def Obligations.NoStepChangesTheControlStoreOrTheParameters : Prop :=
  ∀ s t : State, step s = .next t → t.cs = s.cs ∧ t.params = s.params

/-- R120: a step of a running machine executes exactly the one control word at CS[MPC], that is, the instruction it decodes to, and a
step adds nothing around it. The word at CS[MPC] is what the store lists for slot MPC, and 0 if it lists nothing. -/
def Obligations.AStepRunsTheDecodedInstruction : Prop :=
  ∀ (s : State) (i : Instr), s.status = .running → decode (Store.read s.cs s.mpc.toNat) = i → step s = exec i s

/-- R121, R401, R411. How the model shows a stopped machine is its choice: a halted one answers its own state (log entry 8), a faulted
one its fault (log entry 9), and neither ever changes. -/
def Obligations.AStoppedMachineStaysAsItIs : Prop :=
  ∀ (s : State) (f : Fault) (k : Nat),
    (s.status = .halted → step s = .next s ∧ runSteps k s = s)
      ∧ (s.status = .faulted f → step s = .fault f ∧ runSteps k s = s)

/-- The interface function withFetchWord does what the model says of it (log entry 7): the very next step runs the placed word. -/
def Obligations.TheWordPlacedForFetchIsTheOneThatRuns : Prop :=
  ∀ (s : State) (nbits w : Nat), Store.wf s.cs = true →
    step (s.withFetchWord nbits w) = exec (decode (BitVec.ofNat 40 (w % 2 ^ nbits))) (s.withFetchWord nbits w)

/-- For every well-formed instruction, every field at every value: no bit of an encoding is dropped. Which row a word is filed under
is the model's choice (log entry 1). -/
def Obligations.DecodeOfEncodeIsTheInstruction : Prop :=
  ∀ i : Instr, i.wellFormed = true → decode (encode i) = i

/-- Every horizontal word is the encoding of what it decodes to, with bits 39..36 cleared (R82, decision D2), and every decoded
instruction is well-formed; a halt or reserved word keeps its B field, since nothing else of it is decoded (R90, log entry 2). -/
def Obligations.EncodeOfDecodeKeepsEveryFieldBit : Prop :=
  ∀ w : ControlBits, (decode w).wellFormed = true
    ∧ (field w 0 4 < 9 → (encode (decode w)).toNat = w.toNat % 2 ^ 36)
    ∧ (9 ≤ field w 0 4 → (encode (decode w)).toNat = field w 0 4)

/-- R90: a word holds a row of every field at once and all of them are decoded in parallel. Whichever of a word's rows it is read as,
the instruction does the same as the one the decoder gives, and the reading's encoding is the same; so filing a word under one
row (log entry 1) chooses a name and no meaning. -/
def Obligations.EveryReadingOfAWordMeansTheSame : Prop :=
  ∀ (w : ControlBits) (i : Instr), i ∈ readings w →
    encode i = encode (decode w) ∧ ∀ s : State, exec i s = exec (decode w) s

/-- Words of 95_test_vectors.md L1-1 and L2-12, written out there bit by bit, decode to the fields listed there. -/
def Obligations.SampleWordsDecodeToTheirFields : Prop :=
  (decode 0x0028140081#40).control
      = .micro { Micro.cleared with bsrc := .pc, dest := { Dest.empty with mar := true }, alu := .b, addr := 5#9 }
    ∧ (decode 0x0011372007#40).control
      = .micro { Micro.cleared with bsrc := .tos, dest := { Dest.empty with tos := true }, alu := .bMinus1, jamz := true, addr := 2#9 }
    ∧ (decode 0x0004350211#40).control
      = .micro { Micro.cleared with bsrc := .pc, fetch := true, dest := { Dest.empty with pc := true }, alu := .bPlus1, jmpc := true }
    ∧ (decode 0x000A144007#40).control
      = .micro { Micro.cleared with bsrc := .tos, dest := { Dest.empty with opc := true }, alu := .b, jamn := true, addr := 1#9 }
    ∧ decode 0x000000000F#40 = .halt ∧ decode 0xFFFFFFFFFF#40 = .halt ∧ decode 0x000810800E#40 = .bReserved14
    ∧ decode 0xF028140081#40 = decode 0x0028140081#40

/-- R82 (decision D2): a word that differs only in bits 39..36 is the same instruction, and the row of these bits completes with the
cycle of the other fields. -/
def Obligations.UnusedBitsHaveNoEffect : Prop :=
  (∀ w w' : ControlBits, w.toNat % 2 ^ 36 = w'.toNat % 2 ^ 36 → decode w = decode w')
    ∧ ∀ (m : Micro) (s : State), Completes (.unusedBits3936 m) s (fun t =>
        RegistersAre m.dest.has (result m s) s t ∧ t.pendRead = m.rd ∧ t.pendFetch = m.fetch)
        ∧ field (encode (.unusedBits3936 m)) 36 4 = 0

/-- R89, R121, R126, R246, R446. The halt check reads only the B field of the word at MPC; the word is not executed, and a pending
read or fetch never lands. That the model's step then answers the same state with the run status halted is its choice (log
entry 8). -/
def Obligations.AHaltWordEndsTheRun : Prop :=
  ∀ (s : State) (k : Nat), s.status = .running →
    (s.active = false ↔ field s.currentWord 0 4 = 15)
      ∧ exec .halt s = .next (haltedState s)
      ∧ (field s.currentWord 0 4 = 15 → step s = .next (haltedState s) ∧ endsNormallyAfter 0 s = true
          ∧ runSteps (k + 1) s = haltedState s)
      ∧ field (encode .halt) 0 4 = 15

/-- R150, R401 and R125, which rest on decision D8: a word with B = 9 to 14 faults whatever its other bits hold, with its address and B
value in the record, and nothing of the state changes but the run status. -/
def Obligations.AReservedBValueFaultsBeforeAnyWrite : Prop :=
  ∀ s : State,
    exec .bReserved9 s = .fault (.invalidBSelect s.mpc 9#4)
      ∧ exec .bReserved10 s = .fault (.invalidBSelect s.mpc 10#4)
      ∧ exec .bReserved11 s = .fault (.invalidBSelect s.mpc 11#4)
      ∧ exec .bReserved12 s = .fault (.invalidBSelect s.mpc 12#4)
      ∧ exec .bReserved13 s = .fault (.invalidBSelect s.mpc 13#4)
      ∧ exec .bReserved14 s = .fault (.invalidBSelect s.mpc 14#4)
      ∧ (s.status = .running → 9 ≤ field s.currentWord 0 4 → field s.currentWord 0 4 ≤ 14 →
          step s = .fault (.invalidBSelect s.mpc (BitVec.ofNat 4 (field s.currentWord 0 4)))
            ∧ runStep s = { s with status := .faulted (.invalidBSelect s.mpc (BitVec.ofNat 4 (field s.currentWord 0 4))) }
            ∧ endsInFaultAfter 0 s = true)

/-- R402, R403: nothing but a reserved B value faults, no word is refused, and every word with B = 0 to 8 executes and leaves the
machine running. A halt word ends the run without a fault: AHaltWordEndsTheRun. -/
def Obligations.OnlyAReservedBValueFaults : Prop :=
  ∀ s : State, s.status = .running →
    (∀ f, step s = .fault f → 9 ≤ field s.currentWord 0 4 ∧ field s.currentWord 0 4 ≤ 14)
      ∧ (∀ r, step s ≠ .refused r)
      ∧ (field s.currentWord 0 4 < 9 → ∃ t, step s = .next t ∧ t.status = .running)

/-- R122, whole, for every instruction that is neither HALT nor a reserved B value: the next state, every register, flag, byte and
address of it, from the state before; and everything the cycle leaves alone (the frame). The range tests of the clauses memory and
outOfRange and the flag OOR_SEEN rest on the decisions D11 and D17. The clause freeValues is no rule of the spec: it is about the
model's own counter of free values (log entry 3, DESIGN CHOICE). The premise on the memory is the invariant of
EveryStepKeepsTheStoresWellFormed. -/
def Obligations.EveryHorizontalRowRunsTheCycle : Prop :=
  ∀ (i : Instr) (m : Micro) (s : State), i.control = .micro m → Store.wf s.mem = true →
    ∃ t, exec i s = .next t ∧ CycleEffect m s t

/-- R141 to R149: each B row puts its source on the ALU's B input as it is at the start of the cycle, MBR sign-extended and MBRU
zero-extended, whatever is pending, and the result of that input is what the destinations receive. -/
def Obligations.TheBSourceRowsDriveTheAluInput : Prop :=
  ∀ (m : Micro) (s : State),
    let out := fun b : Word => shifter (aluFunction m.alu (s.reg .h) b (Config.draw32 s.draws)) m.sra1 m.sll8
    (Completes (.bMdr m) s (RegistersAre m.dest.has (out (s.reg .mdr)) s) ∧ field (encode (.bMdr m)) 0 4 = 0)
      ∧ (Completes (.bPc m) s (RegistersAre m.dest.has (out (s.reg .pc)) s) ∧ field (encode (.bPc m)) 0 4 = 1)
      ∧ (Completes (.bMbr m) s (RegistersAre m.dest.has (out (BitVec.ofInt 32 s.mbr.toInt)) s) ∧ field (encode (.bMbr m)) 0 4 = 2)
      ∧ (Completes (.bMbru m) s (RegistersAre m.dest.has (out (BitVec.ofNat 32 s.mbr.toNat)) s) ∧ field (encode (.bMbru m)) 0 4 = 3)
      ∧ (Completes (.bSp m) s (RegistersAre m.dest.has (out (s.reg .sp)) s) ∧ field (encode (.bSp m)) 0 4 = 4)
      ∧ (Completes (.bLv m) s (RegistersAre m.dest.has (out (s.reg .lv)) s) ∧ field (encode (.bLv m)) 0 4 = 5)
      ∧ (Completes (.bCpp m) s (RegistersAre m.dest.has (out (s.reg .cpp)) s) ∧ field (encode (.bCpp m)) 0 4 = 6)
      ∧ (Completes (.bTos m) s (RegistersAre m.dest.has (out (s.reg .tos)) s) ∧ field (encode (.bTos m)) 0 4 = 7)
      ∧ (Completes (.bOpc m) s (RegistersAre m.dest.has (out (s.reg .opc)) s) ∧ field (encode (.bOpc m)) 0 4 = 8)

/-- R180, R190: every destination row completes, its register receives the shifter's output r along with every other destination of
the word, after the landed read, and no other register changes. The bit of each register (decision D1) is in the encoding
clause. -/
def Obligations.TheCBusRowsCommitTheResult : Prop :=
  ∀ (m : Micro) (s : State),
    (Completes (.cMar m) s (RegistersAre (fun x => decide (x = .mar) || m.dest.has x) (result m s) s)
          ∧ field (encode (.cMar m)) 7 1 = 1)
      ∧ (Completes (.cMdr m) s (RegistersAre (fun x => decide (x = .mdr) || m.dest.has x) (result m s) s)
          ∧ field (encode (.cMdr m)) 8 1 = 1)
      ∧ (Completes (.cPc m) s (RegistersAre (fun x => decide (x = .pc) || m.dest.has x) (result m s) s)
          ∧ field (encode (.cPc m)) 9 1 = 1)
      ∧ (Completes (.cSp m) s (RegistersAre (fun x => decide (x = .sp) || m.dest.has x) (result m s) s)
          ∧ field (encode (.cSp m)) 10 1 = 1)
      ∧ (Completes (.cLv m) s (RegistersAre (fun x => decide (x = .lv) || m.dest.has x) (result m s) s)
          ∧ field (encode (.cLv m)) 11 1 = 1)
      ∧ (Completes (.cCpp m) s (RegistersAre (fun x => decide (x = .cpp) || m.dest.has x) (result m s) s)
          ∧ field (encode (.cCpp m)) 12 1 = 1)
      ∧ (Completes (.cTos m) s (RegistersAre (fun x => decide (x = .tos) || m.dest.has x) (result m s) s)
          ∧ field (encode (.cTos m)) 13 1 = 1)
      ∧ (Completes (.cOpc m) s (RegistersAre (fun x => decide (x = .opc) || m.dest.has x) (result m s) s)
          ∧ field (encode (.cOpc m)) 14 1 = 1)
      ∧ (Completes (.cH m) s (RegistersAre (fun x => decide (x = .h) || m.dest.has x) (result m s) s)
          ∧ field (encode (.cH m)) 15 1 = 1)

/-- R191: with C = 0 the result is written nowhere and still steers JAMZ and JAMN. -/
def Obligations.AWordWithoutDestinationWritesNoRegister : Prop :=
  ∀ (m : Micro) (s : State), Completes (.cNone m) s (fun t =>
      (∀ x, x ≠ .mdr → t.reg x = s.reg x)
        ∧ t.reg .mdr = (if s.pendRead = true then s.memReadWord (s.reg .mar) else s.reg .mdr)
        ∧ (m.jmpc = false → t.mpc = if (m.jamz = true ∧ tested m s = 0#32) ∨ (m.jamn = true ∧ (tested m s).toInt < 0)
            then m.addr ||| 0x100#9 else m.addr))
      ∧ field (encode (.cNone m)) 7 9 = 0

/-- R201 to R204 and R212 to R216: the functions without arithmetic, on numbers: complement is 2^32 - 1 - x.
The last two clauses are the corner cases of R214 and R216, under either FLAG_TAP. -/
def Obligations.TheLogicAndConstantAluRowsGiveTheirFunction : Prop :=
  ∀ (m : Micro) (s : State),
    let a := s.reg .h
    let b := s.bInput m.bsrc
    let after := fun f : Word => RegistersAre m.dest.has (shifter f m.sra1 m.sll8) s
    (Completes (.aluH m) s (after (a)) ∧ field (encode (.aluH m)) 16 6 = 0x18)
      ∧ (Completes (.aluB m) s (after (b)) ∧ field (encode (.aluB m)) 16 6 = 0x14)
      ∧ (Completes (.aluNotH m) s (after (BitVec.ofNat 32 (4294967295 - a.toNat))) ∧ field (encode (.aluNotH m)) 16 6 = 0x1A)
      ∧ (Completes (.aluNotB m) s (after (BitVec.ofNat 32 (4294967295 - b.toNat))) ∧ field (encode (.aluNotB m)) 16 6 = 0x2C)
      ∧ (Completes (.aluHAndB m) s (after (BitVec.ofNat 32 (Nat.land a.toNat b.toNat))) ∧ field (encode (.aluHAndB m)) 16 6 = 0x0C)
      ∧ (Completes (.aluHOrB m) s (after (BitVec.ofNat 32 (Nat.lor a.toNat b.toNat))) ∧ field (encode (.aluHOrB m)) 16 6 = 0x1C)
      ∧ (Completes (.aluZero m) s (after (BitVec.ofNat 32 0)) ∧ field (encode (.aluZero m)) 16 6 = 0x10)
      ∧ (Completes (.aluOne m) s (after (BitVec.ofNat 32 1)) ∧ field (encode (.aluOne m)) 16 6 = 0x11)
      ∧ (Completes (.aluMinusOne m) s (after (BitVec.ofNat 32 4294967295)) ∧ field (encode (.aluMinusOne m)) 16 6 = 0x12)
      ∧ Completes (.aluZero m) s (fun t => m.jamz = true → t.mpc.getLsbD 8 = true)
      ∧ Completes (.aluMinusOne m) s (fun t => m.jamn = true → t.mpc.getLsbD 8 = true)

/-- R205 to R211: the arithmetic functions, computed on unbounded numbers and reduced modulo 2^32. -/
def Obligations.TheArithmeticAluRowsAreModulo2To32 : Prop :=
  ∀ (m : Micro) (s : State),
    let a := s.reg .h
    let b := s.bInput m.bsrc
    let after := fun f : Word => RegistersAre m.dest.has (shifter f m.sra1 m.sll8) s
    (Completes (.aluHPlusB m) s (after (BitVec.ofNat 32 ((a.toNat + b.toNat) % 2 ^ 32))) ∧ field (encode (.aluHPlusB m)) 16 6 = 0x3C)
      ∧ (Completes (.aluHPlusBPlus1 m) s (after (BitVec.ofNat 32 ((a.toNat + b.toNat + 1) % 2 ^ 32))) ∧ field (encode (.aluHPlusBPlus1 m)) 16 6 = 0x3D)
      ∧ (Completes (.aluHPlus1 m) s (after (BitVec.ofNat 32 ((a.toNat + 1) % 2 ^ 32))) ∧ field (encode (.aluHPlus1 m)) 16 6 = 0x39)
      ∧ (Completes (.aluBPlus1 m) s (after (BitVec.ofNat 32 ((b.toNat + 1) % 2 ^ 32))) ∧ field (encode (.aluBPlus1 m)) 16 6 = 0x35)
      ∧ (Completes (.aluBMinusH m) s (after (BitVec.ofInt 32 (((b.toNat : Int) - (a.toNat : Int)) % 2 ^ 32))) ∧ field (encode (.aluBMinusH m)) 16 6 = 0x3F)
      ∧ (Completes (.aluBMinus1 m) s (after (BitVec.ofInt 32 (((b.toNat : Int) - 1) % 2 ^ 32))) ∧ field (encode (.aluBMinus1 m)) 16 6 = 0x37)
      ∧ (Completes (.aluNegH m) s (after (BitVec.ofInt 32 ((0 - (a.toNat : Int)) % 2 ^ 32))) ∧ field (encode (.aluNegH m)) 16 6 = 0x3B)

/-- R217 (decision D5): every one of the 48 undefined codes runs. Its ALU output is the next value of draw32, whatever it is, and
everything else of the cycle happens; with C = 0 no register takes it. Nothing here rests on a value of draw32 (log entry 3). -/
def Obligations.AnUndefinedAluCodeRunsWithAFreeValue : Prop :=
  ∀ (m : Micro) (s : State),
    let drawn := fun t : State =>
      RegistersAre m.dest.has (shifter (Config.draw32 s.draws) m.sra1 m.sll8) s t ∧ t.draws = s.draws + 1
        ∧ t.mbr = landedByte s ∧ t.pendRead = m.rd ∧ t.pendFetch = m.fetch ∧ t.status = s.status
    (Completes (.aluUndefined0x00 m) s drawn ∧ field (encode (.aluUndefined0x00 m)) 16 6 = 0x00)
      ∧ (Completes (.aluUndefined0x01 m) s drawn ∧ field (encode (.aluUndefined0x01 m)) 16 6 = 0x01)
      ∧ (Completes (.aluUndefined0x02 m) s drawn ∧ field (encode (.aluUndefined0x02 m)) 16 6 = 0x02)
      ∧ (Completes (.aluUndefined0x03 m) s drawn ∧ field (encode (.aluUndefined0x03 m)) 16 6 = 0x03)
      ∧ (Completes (.aluUndefined0x04 m) s drawn ∧ field (encode (.aluUndefined0x04 m)) 16 6 = 0x04)
      ∧ (Completes (.aluUndefined0x05 m) s drawn ∧ field (encode (.aluUndefined0x05 m)) 16 6 = 0x05)
      ∧ (Completes (.aluUndefined0x06 m) s drawn ∧ field (encode (.aluUndefined0x06 m)) 16 6 = 0x06)
      ∧ (Completes (.aluUndefined0x07 m) s drawn ∧ field (encode (.aluUndefined0x07 m)) 16 6 = 0x07)
      ∧ (Completes (.aluUndefined0x08 m) s drawn ∧ field (encode (.aluUndefined0x08 m)) 16 6 = 0x08)
      ∧ (Completes (.aluUndefined0x09 m) s drawn ∧ field (encode (.aluUndefined0x09 m)) 16 6 = 0x09)
      ∧ (Completes (.aluUndefined0x0A m) s drawn ∧ field (encode (.aluUndefined0x0A m)) 16 6 = 0x0A)
      ∧ (Completes (.aluUndefined0x0B m) s drawn ∧ field (encode (.aluUndefined0x0B m)) 16 6 = 0x0B)
      ∧ (Completes (.aluUndefined0x0D m) s drawn ∧ field (encode (.aluUndefined0x0D m)) 16 6 = 0x0D)
      ∧ (Completes (.aluUndefined0x0E m) s drawn ∧ field (encode (.aluUndefined0x0E m)) 16 6 = 0x0E)
      ∧ (Completes (.aluUndefined0x0F m) s drawn ∧ field (encode (.aluUndefined0x0F m)) 16 6 = 0x0F)
      ∧ (Completes (.aluUndefined0x13 m) s drawn ∧ field (encode (.aluUndefined0x13 m)) 16 6 = 0x13)
      ∧ (Completes (.aluUndefined0x15 m) s drawn ∧ field (encode (.aluUndefined0x15 m)) 16 6 = 0x15)
      ∧ (Completes (.aluUndefined0x16 m) s drawn ∧ field (encode (.aluUndefined0x16 m)) 16 6 = 0x16)
      ∧ (Completes (.aluUndefined0x17 m) s drawn ∧ field (encode (.aluUndefined0x17 m)) 16 6 = 0x17)
      ∧ (Completes (.aluUndefined0x19 m) s drawn ∧ field (encode (.aluUndefined0x19 m)) 16 6 = 0x19)
      ∧ (Completes (.aluUndefined0x1B m) s drawn ∧ field (encode (.aluUndefined0x1B m)) 16 6 = 0x1B)
      ∧ (Completes (.aluUndefined0x1D m) s drawn ∧ field (encode (.aluUndefined0x1D m)) 16 6 = 0x1D)
      ∧ (Completes (.aluUndefined0x1E m) s drawn ∧ field (encode (.aluUndefined0x1E m)) 16 6 = 0x1E)
      ∧ (Completes (.aluUndefined0x1F m) s drawn ∧ field (encode (.aluUndefined0x1F m)) 16 6 = 0x1F)
      ∧ (Completes (.aluUndefined0x20 m) s drawn ∧ field (encode (.aluUndefined0x20 m)) 16 6 = 0x20)
      ∧ (Completes (.aluUndefined0x21 m) s drawn ∧ field (encode (.aluUndefined0x21 m)) 16 6 = 0x21)
      ∧ (Completes (.aluUndefined0x22 m) s drawn ∧ field (encode (.aluUndefined0x22 m)) 16 6 = 0x22)
      ∧ (Completes (.aluUndefined0x23 m) s drawn ∧ field (encode (.aluUndefined0x23 m)) 16 6 = 0x23)
      ∧ (Completes (.aluUndefined0x24 m) s drawn ∧ field (encode (.aluUndefined0x24 m)) 16 6 = 0x24)
      ∧ (Completes (.aluUndefined0x25 m) s drawn ∧ field (encode (.aluUndefined0x25 m)) 16 6 = 0x25)
      ∧ (Completes (.aluUndefined0x26 m) s drawn ∧ field (encode (.aluUndefined0x26 m)) 16 6 = 0x26)
      ∧ (Completes (.aluUndefined0x27 m) s drawn ∧ field (encode (.aluUndefined0x27 m)) 16 6 = 0x27)
      ∧ (Completes (.aluUndefined0x28 m) s drawn ∧ field (encode (.aluUndefined0x28 m)) 16 6 = 0x28)
      ∧ (Completes (.aluUndefined0x29 m) s drawn ∧ field (encode (.aluUndefined0x29 m)) 16 6 = 0x29)
      ∧ (Completes (.aluUndefined0x2A m) s drawn ∧ field (encode (.aluUndefined0x2A m)) 16 6 = 0x2A)
      ∧ (Completes (.aluUndefined0x2B m) s drawn ∧ field (encode (.aluUndefined0x2B m)) 16 6 = 0x2B)
      ∧ (Completes (.aluUndefined0x2D m) s drawn ∧ field (encode (.aluUndefined0x2D m)) 16 6 = 0x2D)
      ∧ (Completes (.aluUndefined0x2E m) s drawn ∧ field (encode (.aluUndefined0x2E m)) 16 6 = 0x2E)
      ∧ (Completes (.aluUndefined0x2F m) s drawn ∧ field (encode (.aluUndefined0x2F m)) 16 6 = 0x2F)
      ∧ (Completes (.aluUndefined0x30 m) s drawn ∧ field (encode (.aluUndefined0x30 m)) 16 6 = 0x30)
      ∧ (Completes (.aluUndefined0x31 m) s drawn ∧ field (encode (.aluUndefined0x31 m)) 16 6 = 0x31)
      ∧ (Completes (.aluUndefined0x32 m) s drawn ∧ field (encode (.aluUndefined0x32 m)) 16 6 = 0x32)
      ∧ (Completes (.aluUndefined0x33 m) s drawn ∧ field (encode (.aluUndefined0x33 m)) 16 6 = 0x33)
      ∧ (Completes (.aluUndefined0x34 m) s drawn ∧ field (encode (.aluUndefined0x34 m)) 16 6 = 0x34)
      ∧ (Completes (.aluUndefined0x36 m) s drawn ∧ field (encode (.aluUndefined0x36 m)) 16 6 = 0x36)
      ∧ (Completes (.aluUndefined0x38 m) s drawn ∧ field (encode (.aluUndefined0x38 m)) 16 6 = 0x38)
      ∧ (Completes (.aluUndefined0x3A m) s drawn ∧ field (encode (.aluUndefined0x3A m)) 16 6 = 0x3A)
      ∧ (Completes (.aluUndefined0x3E m) s drawn ∧ field (encode (.aluUndefined0x3E m)) 16 6 = 0x3E)

/-- R218 to R220, and R221 for a word without a shift: no shift, the arithmetic right shift by one, the left shift by eight, and both with the right shift first. -/
def Obligations.TheShiftRowsShiftRightThenLeft : Prop :=
  ∀ (m : Micro) (s : State),
    let f := aluOutput m s
    let after := fun r : Word => RegistersAre m.dest.has r s
    (Completes (.shNone m) s (after f) ∧ field (encode (.shNone m)) 22 2 = 0)
      ∧ (Completes (.shSra1 m) s (after (f.sshiftRight 1)) ∧ field (encode (.shSra1 m)) 22 2 = 1)
      ∧ (Completes (.shSll8 m) s (after (BitVec.ofNat 32 (f.toNat * 256 % 2 ^ 32))) ∧ field (encode (.shSll8 m)) 22 2 = 2)
      ∧ (Completes (.shSra1Sll8 m) s (after (BitVec.ofNat 32 ((f.sshiftRight 1).toNat * 256 % 2 ^ 32)))
          ∧ field (encode (.shSra1Sll8 m)) 22 2 = 3)

/-- R240 to R245: ADDR, with bit 8 set where JAMZ meets a zero result or JAMN a negative one, and with the instruction byte, as it is
after this cycle's landing, where JMPC is set; combined modifiers all apply (decision D15). Zero and negative are of the value
FLAG_TAP selects (decision D7). -/
def Obligations.TheNextAddressRowsComputeTheNextWord : Prop :=
  ∀ (m : Micro) (s : State),
    let z := decide (tested m s = 0#32)
    let n := decide ((tested m s).toInt < 0)
    let byte := (landedByte s).setWidth 9
    let go := fun (a : Slot) (t : State) => t.mpc = a ∧ RegistersAre m.dest.has (result m s) s t
    (Completes (.nextGoto m) s (go (m.addr)) ∧ field (encode (.nextGoto m)) 24 3 = 0)
      ∧ (Completes (.nextJamz m) s (go (if z then m.addr ||| 0x100#9 else m.addr)) ∧ field (encode (.nextJamz m)) 24 3 = 1)
      ∧ (Completes (.nextJamn m) s (go (if n then m.addr ||| 0x100#9 else m.addr)) ∧ field (encode (.nextJamn m)) 24 3 = 2)
      ∧ (Completes (.nextJmpc m) s (go (m.addr ||| byte)) ∧ field (encode (.nextJmpc m)) 24 3 = 4)
      ∧ (Completes (.nextJamzJamn m) s (go (if z || n then m.addr ||| 0x100#9 else m.addr)) ∧ field (encode (.nextJamzJamn m)) 24 3 = 3)
      ∧ (Completes (.nextJamzJmpc m) s (go ((if z then m.addr ||| 0x100#9 else m.addr) ||| byte)) ∧ field (encode (.nextJamzJmpc m)) 24 3 = 5)
      ∧ (Completes (.nextJamnJmpc m) s (go ((if n then m.addr ||| 0x100#9 else m.addr) ||| byte)) ∧ field (encode (.nextJamnJmpc m)) 24 3 = 6)
      ∧ (Completes (.nextJamzJamnJmpc m) s (go ((if z || n then m.addr ||| 0x100#9 else m.addr) ||| byte)) ∧ field (encode (.nextJamzJamnJmpc m)) 24 3 = 7)

/-- R160 and R161, with the hazards R440, R441 and R443: RD makes a read pending and touches no memory; in the next cycle, whatever its
word, the word at MAR as RD's cycle left it lands in MDR unless that word names MDR as a destination. -/
def Obligations.AReadReachesMdrInTheNextCycle : Prop :=
  ∀ (m : Micro) (s : State),
    field (encode (.memRd m)) 5 1 = 1
      ∧ Completes (.memRd m) s (fun t => t.pendRead = true ∧ t.pendFetch = m.fetch
          ∧ RegistersAre m.dest.has (result m s) s t ∧ (m.wr = false → t.mem = s.mem)
          ∧ ∀ (j : Instr) (n : Micro), j.control = .micro n → Completes j t (fun u =>
              u.reg .mdr = (if n.dest.mdr = true then result n t else t.memReadWord (t.reg .mar)) ∧ u.pendRead = n.rd))

/-- R163 and R164, with R442: FETCH makes a fetch pending; in the next cycle, whatever its word, the byte at PC as FETCH's cycle left it
lands in MBR, and JMPC of that cycle already dispatches on it. -/
def Obligations.AFetchReachesMbrInTheNextCycle : Prop :=
  ∀ (m : Micro) (s : State),
    field (encode (.memFetch m)) 4 1 = 1
      ∧ Completes (.memFetch m) s (fun t => t.pendFetch = true ∧ t.pendRead = m.rd
          ∧ RegistersAre m.dest.has (result m s) s t ∧ (m.wr = false → t.mem = s.mem)
          ∧ ∀ (j : Instr) (n : Micro), j.control = .micro n → Completes j t (fun u =>
              u.mbr = t.memReadByte (t.reg .pc) ∧ u.pendFetch = n.fetch
                ∧ (n.jamz = false → n.jamn = false → n.jmpc = true → u.mpc = n.addr ||| u.mbr.setWidth 9)))

/-- R165: both flags are armed, both land in the next cycle, and since the two landings write different registers their order has no
effect. The encoder accepts a line with both. -/
def Obligations.AReadWithAFetchArmsBoth : Prop :=
  (∀ (m : Micro) (s : State), field (encode (.memRdFetch m)) 4 2 = 3
      ∧ Completes (.memRdFetch m) s (fun t => t.pendRead = true ∧ t.pendFetch = true
          ∧ RegistersAre m.dest.has (result m s) s t
          ∧ ∀ (j : Instr) (n : Micro), j.control = .micro n → Completes j t (fun u =>
              (n.dest.mdr = false → u.reg .mdr = t.memReadWord (t.reg .mar)) ∧ u.mbr = t.memReadByte (t.reg .pc))))
    ∧ (∀ s : State, s.landRead.landFetch = s.landFetch.landRead)
    ∧ ∀ a : Option Nat, ∃ w, encodeLine [.read, .fetch] a = .ok (some w) ∧ field w 4 2 = 3

/-- R162 and R444: the four bytes 4k to 4k+3 of word k = MAR become those of MDR, both as they are after this cycle's landing and
commit, in this same cycle; no other byte changes; out of range nothing is written and OOR_SEEN is set (range test: decision
D11). -/
def Obligations.AWriteStoresMdrAtWordMarInItsOwnCycle : Prop :=
  ∀ (m : Micro) (s : State), field (encode (.memWr m)) 6 1 = 1
    ∧ Completes (.memWr m) s (fun t => RegistersAre m.dest.has (result m s) s t ∧ t.pendRead = m.rd ∧ t.pendFetch = m.fetch
        ∧ (Store.wf s.mem = true → MemoryIs true s t)
        ∧ (¬ 4 * (t.reg .mar).toNat + 4 ≤ s.params.memBytes → t.mem = s.mem ∧ t.oorSeen = true)
        ∧ (Store.wf s.mem = true → 4 * (t.reg .mar).toNat + 4 ≤ s.params.memBytes → t.memReadWord (t.reg .mar) = t.reg .mdr))

/-- R166 (decision D16): the write happens now, the read is armed, and in the next cycle it returns the value just written. -/
def Obligations.AReadWithAWriteReadsBackWhatItWrote : Prop :=
  ∀ (m : Micro) (s : State), field (encode (.memRdWr m)) 5 2 = 3
    ∧ Completes (.memRdWr m) s (fun t => t.pendRead = true ∧ RegistersAre m.dest.has (result m s) s t
        ∧ (Store.wf s.mem = true → MemoryIs true s t)
        ∧ ∀ (j : Instr) (n : Micro), j.control = .micro n → Store.wf s.mem = true → n.dest.mdr = false →
            4 * (t.reg .mar).toNat + 4 ≤ s.params.memBytes → Completes j t (fun u => u.reg .mdr = t.reg .mdr))

/-- R167: a flag is pending after a cycle exactly when that cycle's word had the bit; nothing is ever pending longer. -/
def Obligations.ThePendingFlagsHoldOneCycle : Prop :=
  ∀ s t : State, s.status = .running → field s.currentWord 0 4 < 9 → step s = .next t →
    t.pendRead = getBit s.currentWord 5 ∧ t.pendFetch = getBit s.currentWord 4

/-- R192: MBR is no destination; without a pending fetch no step changes it, and a pending fetch gives it the byte at PC,
whatever the word and its destinations are. -/
def Obligations.OnlyAFetchLandingWritesMbr : Prop :=
  ∀ s t : State, step s = .next t →
    (s.pendFetch = false → t.mbr = s.mbr)
      ∧ (s.pendFetch = true → s.status = .running → field s.currentWord 0 4 < 9 → t.mbr = s.memReadByte (s.reg .pc))

/-- R20 to R22, over all words: a step changes a register other than MDR only if the executed word has that register's C bit (decision
D1); in particular the hardware never increments PC by itself. -/
def Obligations.ARegisterWithoutItsCBitIsUnchanged : Prop :=
  ∀ (s t : State) (x : Reg), step s = .next t → getBit s.currentWord (7 + x.cBit) = false → x ≠ .mdr → t.reg x = s.reg x

/-- R152: the A input is always H, H cannot be put on the B-bus, and MAR can be put on neither input:
changing H changes no B input, and changing MAR changes no result. -/
def Obligations.MarNeverReachesTheAlu : Prop :=
  ∀ (m : Micro) (s : State) (v : Word), s.aInput = s.reg .h ∧ (∀ b, (s.setReg .h v).bInput b = s.bInput b)
    ∧ (∀ b, (s.setReg .mar v).bInput b = s.bInput b) ∧ result m (s.setReg .mar v) = result m s
    ∧ aluOutput m (s.setReg .mar v) = aluOutput m s

/-- R52 with R53 (byte order: decision D10): a word write is seen as four bytes and as the word, changes no other byte, and a word read is
made of the four bytes at 4k to 4k+3. -/
def Obligations.TheWordViewAndTheByteViewShareOneBuffer : Prop :=
  ∀ (s : State) (k v : Word), 4 * k.toNat + 4 ≤ s.params.memBytes →
    (∀ j, j < 4 → (s.memReadWord k).toNat / 256 ^ j % 256
        = (s.byteAt (4 * k.toNat + (if s.params.byteOrder = .little then j else 3 - j))).toNat)
      ∧ (Store.wf s.mem = true →
          (s.memWriteWord k v).memReadWord k = v
            ∧ (∀ j, j < 4 → ((s.memWriteWord k v).byteAt (4 * k.toNat + (if s.params.byteOrder = .little then j else 3 - j))).toNat
                = v.toNat / 256 ^ j % 256)
            ∧ ∀ a, (a < 4 * k.toNat ∨ 4 * k.toNat + 4 ≤ a) → (s.memWriteWord k v).byteAt a = s.byteAt a)

/-- R54 to R56 and R65 (decisions D11, D17): outside the buffer a read gives 0, a write changes nothing, and OOR_SEEN records it for
ever; a landing of a read or of a fetch from outside it records it too. -/
def Obligations.OutOfRangeAccessesAreSilent : Prop :=
  ∀ (s : State) (k v : Word),
    (¬ 4 * k.toNat + 4 ≤ s.params.memBytes → s.memReadWord k = 0#32 ∧ (s.memWriteWord k v).mem = s.mem ∧ (s.memWriteWord k v).oorSeen = true)
      ∧ (4 * k.toNat + 4 ≤ s.params.memBytes → (s.memWriteWord k v).oorSeen = s.oorSeen)
      ∧ (¬ k.toNat < s.params.memBytes → s.memReadByte k = 0#8)
      ∧ (k.toNat < s.params.memBytes → s.memReadByte k = s.byteAt k.toNat)
      ∧ (∀ t, step s = .next t → s.oorSeen = true → t.oorSeen = true)
      ∧ (∀ t, s.status = .running → field s.currentWord 0 4 < 9 → step s = .next t → s.pendRead = true →
          ¬ 4 * (s.reg .mar).toNat + 4 ≤ s.params.memBytes → t.oorSeen = true)
      ∧ (∀ t, s.status = .running → field s.currentWord 0 4 < 9 → step s = .next t → s.pendFetch = true →
          ¬ (s.reg .pc).toNat < s.params.memBytes → t.oorSeen = true)

/-- R92: clear, set_bit, set_bits, get_bit and get_bits over a 40-bit word, at every position. -/
def Obligations.TheCodecReadsBackWhatItSets : Prop :=
  (∀ p n, getBit clearWord p = false ∧ field clearWord p n = 0)
    ∧ ∀ (w : ControlBits) (v p n q : Nat), p + n ≤ 40 → q < 40 →
        (p < 40 → getBit (setBit w p) q = (decide (q = p) || getBit w q))
          ∧ getBit (setBits w v p n) q = (if p ≤ q ∧ q < p + n then v.testBit (q - p) else getBit w q)
          ∧ field (setBits w v p n) p n = v % 2 ^ n
          ∧ (∀ k, k < n → (field w p n).testBit k = getBit w (p + k)) ∧ field w p n < 2 ^ n

/-- R95, for both digit orders of R94: reading the ten digits of a word gives the word, and a value that fits its width is read back after
it is set. -/
def Obligations.TextFormRoundTrip : Prop :=
  (∀ (order : HexOrder) (w : ControlBits),
      (encodeText order w).length = 10 ∧ decodeText order (encodeText order w) = some w)
    ∧ ∀ (w : ControlBits) (v p n : Nat), p + n ≤ 40 → v < 2 ^ n → field (setBits w v p n) p n = v

/-- R93 (decision D3): byte j of a word holds its bits 8j+7..8j, and the decoder reads the five bytes of a word as that word. -/
def Obligations.BytesAndWordsAreTheSame : Prop :=
  ∀ w : ControlBits, (bytesOf w).length = 5
    ∧ (∀ p, p < 40 → ((bytesOf w).getD (p / 8) 0#8).getLsbD (p % 8) = getBit w p)
    ∧ decodeBytes (bytesOf w) = .ok (decode w)
    ∧ (∀ bs : List Byte, bs.length ≠ 5 → decodeBytes bs = .error (.notFiveBytes bs.length))

/-- R260, R262, R266 to R268 and R270 to R277: the word of a legal line has a memory bit, C bit, jump bit or halt marker exactly where
the line has the operation, never RD with WR, never a reserved B value, never two jump modifiers, and bits 39..36 are 0; the ALU
field, B field and shift bits are those of the assignment's expression, and 0 without one (decision D6); the address field is the
indirect goto's constant (decision D21), else the successor's address. A line with no operation has no word. Which lines are legal:
ALineIsEncodedExactlyWhereItIsLegal. -/
def Obligations.AnEncodedLineHoldsExactlyItsOperations : Prop :=
  (∀ a : Option Nat, encodeLine [] a = .ok none)
    ∧ ∀ (ops : List Operation) (a : Option Nat) (w : ControlBits), encodeLine ops a = .ok (some w) →
      getBit w 5 = ops.contains .read ∧ getBit w 6 = ops.contains .write ∧ getBit w 4 = ops.contains .fetch
        ∧ ¬ (getBit w 5 = true ∧ getBit w 6 = true)
        ∧ (∀ r : Reg, getBit w (7 + r.cBit) = true ↔ ∃ t ts e, Operation.assign t ts e ∈ ops ∧ Target.reg r ∈ t :: ts)
        ∧ (∀ t ts e, Operation.assign t ts e ∈ ops → ∃ c, encodeExpr e = some c ∧ field w 16 6 = c.alu.code
            ∧ field w 0 4 = c.bsrc.code ∧ getBit w 22 = c.sra1 ∧ getBit w 23 = c.sll8)
        ∧ ((∀ t ts e, Operation.assign t ts e ∉ ops) → field w 16 6 = 0 ∧ field w 22 2 = 0
            ∧ (Operation.halt ∉ ops → field w 0 4 = 0))
        ∧ (getBit w 24 = true ↔ ∃ t f, Operation.condIf .z t f ∈ ops)
        ∧ (getBit w 25 = true ↔ ∃ t f, Operation.condIf .n t f ∈ ops)
        ∧ (getBit w 26 = true ↔ ∃ c, Operation.indirectGoto c ∈ ops)
        ∧ (getBit w 24).toNat + (getBit w 25).toNat + (getBit w 26).toNat ≤ 1
        ∧ (∀ c, Operation.indirectGoto c ∈ ops → field w 27 9 = c)
        ∧ (Operation.halt ∉ ops → (∀ c, Operation.indirectGoto c ∉ ops) → ∀ x, x < 512 → a = some x → field w 27 9 = x)
        ∧ (field w 0 4 = 15 ↔ Operation.halt ∈ ops) ∧ (Operation.halt ∈ ops → w = 15#40)
        ∧ (Operation.halt ∉ ops → field w 0 4 < 9) ∧ field w 36 4 = 0

/-- R271 (decision D18): whenever the encoder accepts an expression, the ALU function, B source and shifts it chooses compute that
expression in every state. MAR, a register outside the nine and MBR/MBRU, a binary form without exactly one H, a subtraction other
than R - H and R - 1, a negation of anything but H and 1, and the left shift before the right one are rejected. -/
def Obligations.TheExpressionCodesComputeTheExpression : Prop :=
  (∀ (e : Expr) (c : ExprCode), encodeExpr e = some c → ∀ (s : State) (free : Word),
      exprValue s e = some (shifter (aluFunction c.alu s.aInput (s.bInput c.bsrc) free) c.sra1 c.sll8) ∧ usesDraw c.alu = false)
    ∧ (∀ e : Expr, namesForeignRegister e → encodeExpr e = none)
    ∧ (∀ e : Expr, encodeExpr (.shiftRight (.shiftLeft e 8) 1) = none)
    ∧ ∀ sra1 sll8 : Bool,
        let rejected := fun e : Expr => encodeExpr (underShifts sra1 sll8 e) = none
        (∀ x y : Atom, (x = .h ↔ y = .h) → rejected (.add (.atom x) (.atom y)) ∧ rejected (.and (.atom x) (.atom y))
            ∧ rejected (.or (.atom x) (.atom y)) ∧ rejected (.add (.add (.atom x) (.atom y)) (.const 1)))
          ∧ (∀ x y : Expr, ¬ ((∃ r, x = .atom (.bus r)) ∧ (y = .atom .h ∨ y = .const 1)) → rejected (.sub x y))
          ∧ (∀ x : Expr, x ≠ .atom .h → x ≠ .const 1 → rejected (.neg x))

/-- R315: in every program that assembles, the two targets of every conditional are 0x100 apart, every instruction-bearing line has a
slot below 512 and no two share one; and two conditionals whose four targets are unplaced get 0 and 256, then 1 and 257. -/
def Obligations.AnEmittedStoreHasPairedAndDistinctAddresses : Prop :=
  (∀ (p : Program) (img : ControlImage), assemble p = .ok img → ∃ pl, placeProgram p = .ok pl
      ∧ (∀ i, bearing p i = true → ∃ a, pl.slotOf i = some a ∧ a < 512
          ∧ ∀ j, bearing p j = true → j ≠ i → pl.slotOf j ≠ some a)
      ∧ (∀ i t f, condAt p i = some (t, f) → ∃ lt lf at_ af, owner p t = some lt ∧ owner p f = some lf
          ∧ pl.slotOf lt = some at_ ∧ pl.slotOf lf = some af ∧ at_ = af + 0x100))
    ∧ ∀ (i j ta fa tb fb : Nat), [ta, fa, tb, fb].Nodup →
        ∃ p1 p2, pairStep { placed := [], cursor := 0, warnings := [] } i ta fa = .ok p1 ∧ pairStep p1 j tb fb = .ok p2
          ∧ p2.slotOf fa = some 0 ∧ p2.slotOf ta = some 256 ∧ p2.slotOf fb = some 1 ∧ p2.slotOf tb = some 257

/-- R278, R279, R311, R314, R316, R317: in every program that assembles, each instruction-bearing line's slot holds the word that the encoder
gives its operations; its address field is the slot of the line the goto's label names, of the line the false label names, or,
without a transfer, of the next instruction-bearing line. A pinned label's line has its pin as its slot (R311); that this holds of the
pin of a label that an earlier line carries too, and that references to such a label go to its first line, is the model's choice (log
entry 14). Every other slot is empty, and the entry is the slot of the first instruction-bearing line (decision D19). -/
def Obligations.AnAssembledStoreHoldsTheFinishedWords : Prop :=
  ∀ (p : Program) (img : ControlImage), assemble p = .ok img → ∃ pl, placeProgram p = .ok pl
    ∧ Store.wf img.store = true ∧ Store.below 512 img.store = true
    ∧ (∀ i, bearing p i = true → ∃ a w x, pl.slotOf i = some a ∧ Store.read img.store a = w
        ∧ encodeLine (opsAt p i) x = .ok (some w)
        ∧ (∀ l, Operation.goto l ∈ opsAt p i → ∃ j, owner p l = some j ∧ pl.slotOf j = some (field w 27 9))
        ∧ (∀ c t f, Operation.condIf c t f ∈ opsAt p i → ∃ j, owner p f = some j ∧ pl.slotOf j = some (field w 27 9))
        ∧ ((∀ o ∈ opsAt p i, ¬ transfers o) → ∃ j, nextBearing p (i + 1) = some j ∧ pl.slotOf j = some (field w 27 9)))
    ∧ (∀ i a, pinAt p i = some a → a < 512 ∧ ∃ j, nextBearing p i = some j ∧ pl.slotOf j = some a)
    ∧ (∀ a, (∀ i, bearing p i = true → pl.slotOf i ≠ some a) → Store.read img.store a = 0#40)
    ∧ (∃ i, nextBearing p 0 = some i ∧ pl.slotOf i = some img.entry.toNat)

/-- R317 and R318: loading the text of an image gives the image back, in both digit orders, whatever the disassembly column says. -/
def Obligations.AnEmittedImageLoadsBack : Prop :=
  ∀ (order : HexOrder) (img : ControlImage), Store.wf img.store = true → Store.below 512 img.store = true →
    loadImage order (emitImage order img) = .ok img

/-- R318 and R319 (decisions D14 and D23): fewer than 512 word lines, a missing entry line, an entry that is no hex number or is 0x200
or more, in digits of either case and any number, and a word field of the first 512 lines that is not ten hex digits are refused and
no machine is constructed; every other text constructs one, whose MPC is the entry's value and whose slot j holds the word of word
line j. Where a line ends, where the entry's digits stand and where a word field stands are the model's choice (linesOf, parseEntry,
wordField: log entry 17). -/
def Obligations.AShortOrMalformedImageConstructsNoMachine : Prop :=
  ∀ (p : Params) (t : Text) (g : Regs) (b : Byte) (mem : Memory),
    ((linesOf t).length < 513 → ∃ e, constructFromText p t g b mem = .error e)
      ∧ (∀ first rest, linesOf t = first :: rest →
          (¬ (txt "entry: ").isPrefixOf first = true → constructFromText p t g b mem = .error .noEntryLine)
            ∧ (∀ digits, first = txt "entry: " ++ digits →
                (notAHexNumber digits → constructFromText p t g b mem = .error .badEntry)
                  ∧ (¬ notAHexNumber digits → 512 ≤ hexNumber digits →
                      constructFromText p t g b mem = .error (.entryOutOfRange (hexNumber digits)))
                  ∧ (¬ notAHexNumber digits → hexNumber digits < 512 →
                      (∀ j, j < 512 → ∃ line, rest[j]? = some line ∧ (wordField line).length = 10 ∧ ¬ notAHexNumber (wordField line)) →
                      ∃ s, constructFromText p t g b mem = .ok s ∧ s.mpc.toNat = hexNumber digits
                        ∧ ∀ j line, j < 512 → rest[j]? = some line →
                            decodeText p.hexOrder (wordField line) = some (Store.read s.cs j)))
            ∧ (∀ j line, j < 512 → rest[j]? = some line →
                ((wordField line).length ≠ 10 ∨ notAHexNumber (wordField line)) → ∃ e, constructFromText p t g b mem = .error e))
      ∧ (∀ s, constructFromText p t g b mem = .ok s → Store.wf s.cs = true ∧ Store.below 512 s.cs = true
          ∧ s.status = .running ∧ s.pendRead = false ∧ s.pendFetch = false ∧ (∀ x, s.reg x = g.get x) ∧ s.mbr = b ∧ s.mem = mem)
      ∧ (∀ (v : Nat) (rest : Text), 512 ≤ v → v < 4096 →
          constructFromText p (txt "entry: " ++ hexText 3 v ++ '\n' :: rest) g b mem = .error (.entryOutOfRange v))

/-- R283: the five examples, in the canonical rendering of R282 (decision D22). -/
def Obligations.TheSpecsExamplesDisassembleAsWritten : Prop :=
  disassemble 0x0028140081#40 = txt "MAR = PC; goto 0x005;"
    ∧ disassemble 0x0011372007#40 = txt "TOS = TOS - 1; if (Z) goto 0x102; else goto 0x002;"
    ∧ disassemble 0x0004350211#40 = txt "PC = PC + 1; fetch; goto (MBR);"
    ∧ disassemble 0x000000000F#40 = txt "halt"
    ∧ disassemble 0x0010542007#40 = txt "TOS = (TOS) >> 1; goto 0x002;"

/-- R271 (decision D18), the table whole: the encoder accepts an expression exactly where it is a row of the table under one of the
four shift suffixes, with that row's ALU and B fields; it rejects every other expression. -/
def Obligations.TheEncoderAcceptsExactlyTheTableOfExpressions : Prop :=
  ∀ (e : Expr) (c : ExprCode), encodeExpr e = some c ↔
    c.alu.wellFormed = true ∧ ∃ e', e = underShifts c.sra1 c.sll8 e' ∧ tableRow e' c.alu.code c.bsrc.code

/-- R260 and R311: a label names the first instruction-bearing line at or after the line that carries it; a line bears instructions if
it has an operation. That the first of two lines with one label counts is the model's choice (log entry 14). -/
def Obligations.ALabelNamesTheFirstInstructionBearingLine : Prop :=
  ∀ p : Program,
    (∀ j, bearing p j = true ↔ ∃ ln, p[j]? = some ln ∧ ln.ops ≠ [])
      ∧ (∀ j ln, p[j]? = some ln → opsAt p j = ln.ops)
      ∧ (∀ i j, nextBearing p i = some j ↔ i ≤ j ∧ bearing p j = true ∧ ∀ k, i ≤ k → k < j → bearing p k = false)
      ∧ (∀ l j, owner p l = some j ↔ ∃ k ln pin, p[k]? = some ln ∧ ln.label = some (l, pin)
          ∧ (∀ k' ln' pin', k' < k → p[k']? = some ln' → ln'.label ≠ some (l, pin')) ∧ nextBearing p k = some j)

/-- R262 to R265, R268, R269, R271, R277: a line with an operation has a word exactly where it keeps every rule of section 2, whatever its
successor; any other line is an error with at least one violation and no word. -/
def Obligations.ALineIsEncodedExactlyWhereItIsLegal : Prop :=
  ∀ (ops : List Operation) (a : Option Nat),
    (LegalLine ops → ops ≠ [] → ∃ w, encodeLine ops a = .ok (some w))
      ∧ (¬ LegalLine ops → ∃ v vs, encodeLine ops a = .error (v :: vs))

/-- R261, R311, R314: a program with a label that names no instruction-bearing line, whether or not a line refers to it, with a reference
to a label that no line carries, with a pin outside the store, with two labels pinned to one address, or with an illegal line gives
no image. The clauses on labels and on pins are about every line that carries a label; that they hold also of a later line that repeats
a label an earlier line already binds is the model's choice (log entry 14). -/
def Obligations.NoImageWithAnUnboundLabelABadPinOrAnIllegalLine : Prop :=
  ∀ (p : Program) (img : ControlImage), assemble p = .ok img →
    (∀ (i : Nat) (ln : Line) (l : Label) (pin : Option Nat), p[i]? = some ln → ln.label = some (l, pin) → ∃ j, nextBearing p i = some j)
      ∧ (∀ (i : Nat) (ln : Line) (l : Label), p[i]? = some ln → (Operation.goto l ∈ ln.ops ∨ (∃ c t, Operation.condIf c t l ∈ ln.ops)
          ∨ (∃ c f, Operation.condIf c l f ∈ ln.ops)) → ∃ j, owner p l = some j)
      ∧ (∀ (i : Nat) (ln : Line) (l : Label) (a : Nat), p[i]? = some ln → ln.label = some (l, some a) → pinAt p i = some a ∧ a < 512
          ∧ ∀ (i' : Nat) (ln' : Line) (l' : Label), p[i']? = some ln' → ln'.label = some (l', some a) → i' = i)
      ∧ (∀ (i : Nat) (ln : Line), p[i]? = some ln → LegalLine ln.ops)

/-- R261, R314: in a program that is placed, every label without a binding is reported with the line it stands on and its own name, and
no image is given: every label that an operation of a line refers to and no line binds, also in a line that breaks other rules, and
every label whose own line has no instruction-bearing line at or after it. For a later line that repeats a bound label this is the
model's choice (log entry 14), and so is what is reported where the placement ends in a fatal error (log entry 18). -/
def Obligations.EveryUnboundLabelIsReported : Prop :=
  ∀ (p : Program) (pl : Placement), placeProgram p = .ok pl → ∀ (i : Nat) (ln : Line), p[i]? = some ln → ∀ l : Label,
    ((Operation.goto l ∈ ln.ops ∨ (∃ c t, Operation.condIf c t l ∈ ln.ops) ∨ ∃ c f, Operation.condIf c l f ∈ ln.ops) →
        owner p l = none → ∃ ds, assemble p = .error (.warnings ds) ∧ ⟨i, .undefinedSymbol l⟩ ∈ ds)
      ∧ (∀ pin, ln.label = some (l, pin) → nextBearing p i = none →
          ∃ ds, assemble p = .error (.warnings ds) ∧ ⟨i, .undefinedSymbol l⟩ ∈ ds)
end

