-- ==== Sys2Proof/Laws/Assembler.lean ====
section
/-! SUPPORT. What the line encoder and the assembler can answer (46_microassembler.md R260, R271; 47_placement_image.md
R310 to R316): one inversion lemma for each, which proofs cite instead of unfolding. -/

namespace Sys2Proof.Machine

/-- A binary operation is accepted with exactly one H (R271). -/
theorem binaryB_some {x y : Expr} {r : BSource} (h : binaryB x y = some r) :
    (x = .atom .h ∧ y = .atom (.bus r)) ∨ (x = .atom (.bus r) ∧ y = .atom .h) := by
  unfold binaryB at h
  split at h <;> simp_all

/-- An accepted expression is an accepted unshifted one under no shift, one, or both with the right shift first (R271). -/
theorem encodeExpr_some {e : Expr} {c : ExprCode} (h : encodeExpr e = some c) :
    ∃ e', encodeUnshifted e' = some (c.alu, c.bsrc)
      ∧ ((e = .shiftLeft (.shiftRight e' 1) 8 ∧ c.sra1 = true ∧ c.sll8 = true)
        ∨ (e = .shiftRight e' 1 ∧ c.sra1 = true ∧ c.sll8 = false)
        ∨ (e = .shiftLeft e' 8 ∧ c.sra1 = false ∧ c.sll8 = true)
        ∨ (e = e' ∧ c.sra1 = false ∧ c.sll8 = false)) := by
  unfold encodeExpr at h
  split at h <;> simp only [shiftedCode, Option.map_eq_some_iff] at h <;> obtain ⟨q, hq, rfl⟩ := h <;>
    exact ⟨_, hq, by simp⟩

/-- The encoder answers a word exactly for a legal line that has an operation (R260). -/
theorem encodeLine_word {ops : List Operation} {a : Option Nat} {w : ControlBits} :
    encodeLine ops a = .ok (some w) ↔ lineViolations ops = [] ∧ ops ≠ [] ∧ w = addressedWord ops a := by
  unfold encodeLine
  by_cases hv : lineViolations ops = []
  · by_cases ho : ops = []
    · rw [if_pos hv, if_pos ho]
      simp [ho]
    · rw [if_pos hv, if_neg ho]
      simp only [Except.ok.injEq, Option.some.injEq]
      exact ⟨fun h => ⟨hv, ho, h.symm⟩, fun h => h.2.2.symm⟩
  · rw [if_neg hv]
    exact ⟨fun h => (by cases h), fun h => absurd h.1 hv⟩

/-- Without an unbound label, a line that carries a label has an instruction-bearing line at or after it (R314). -/
theorem nextBearing_of_labelAt {p : Program} {i : Nat} {l : Label} (h : unboundLabels p = []) (hl : labelAt p i = some l) :
    ∃ j, nextBearing p i = some j := by
  have hi : i < p.length := by
    unfold labelAt at hl
    split at hl
    · exact (List.getElem?_eq_some_iff.mp ‹_›).1
    · cases hl
  have hn := List.filterMap_eq_nil_iff.mp h i (List.mem_range.mpr hi)
  cases hb : nextBearing p i with
  | some j => exact ⟨j, rfl⟩
  | none => simp [hb, hl] at hn

/-- A line without an unbound reference refers to labels that have a line (R314). -/
theorem owner_of_reference {p : Program} {i : Nat} {o : Operation} {l : Label} (h : unboundReferences p i = [])
    (ho : o ∈ opsAt p i) (hl : l ∈ o.labels) : ∃ j, owner p l = some j := by
  rw [unboundReferences, List.map_eq_nil_iff, List.filter_eq_nil_iff] at h
  have hn := h l (List.mem_flatMap.mpr ⟨o, ho, hl⟩)
  rw [Option.isNone_iff_eq_none] at hn
  exact Option.ne_none_iff_exists'.mp hn

/-- A program that assembles was placed without a warning, all its labels name a line, none of its instruction-bearing
lines breaks a rule, and the image is the placed store with the slot of the first such line as its entry (R261, R316). -/
theorem assemble_ok {p : Program} {img : ControlImage} (h : assemble p = .ok img) :
    ∃ pl e, placeProgram p = .ok pl ∧ pl.warnings = [] ∧ unboundLabels p = []
      ∧ (∀ i ∈ bearingLines p, lineDiagnostics p pl i = []) ∧ (nextBearing p 0).bind pl.slotOf = some e ∧ img = { entry := BitVec.ofNat 9 e, store := buildStore p pl } := by
  unfold assemble at h
  split at h
  · cases h
  · rename_i pl hpl
    simp only at h
    split at h
    · rename_i hd
      obtain ⟨hwu, hl⟩ := List.append_eq_nil_iff.mp hd
      obtain ⟨hw, hu⟩ := List.append_eq_nil_iff.mp hwu
      split at h
      · rename_i e he
        cases h
        exact ⟨pl, e, hpl, hw, hu, List.flatMap_eq_nil_iff.mp hl, he, rfl⟩
      · cases h
    · cases h

end Sys2Proof.Machine
end

