-- ==== Sys2Proof/Laws/Codec.lean ====
section
/-! SUPPORT. The codec: the fields of a word, the fields of an encoded word (30_encoding.md R81 to R88), one lemma a field,
the tables' own round trips, and the digits of the text form (R94). -/

namespace Sys2Proof

theorem BSource.code_lt (b : BSource) : b.code < 9 := by cases b <;> decide

theorem bSourceOf_code (b : BSource) : bSourceOf b.code = some b := by cases b <;> rfl

theorem code_of_bSourceOf {n : Nat} {b : BSource} (h : bSourceOf n = some b) : b.code = n := by
  unfold bSourceOf at h
  split at h <;> simp_all <;> subst h <;> rfl

theorem AluFn.code_lt (f : AluFn) : f.code < 64 := by
  cases f with
  | undefined c => simpa [AluFn.code] using c.isLt
  | _ => decide

theorem aluFnOf_code {f : AluFn} (h : f.wellFormed = true) : aluFnOf f.code = f := by
  cases f with
  | undefined c => simpa [AluFn.wellFormed, AluFn.code] using h
  | _ => rfl

/-- Every 6-bit code is read as a function with that code, and an undefined one is undefined. -/
theorem aluFnOf_spec {n : Nat} (h : n < 64) : (aluFnOf n).code = n ∧ (aluFnOf n).wellFormed = true := by
  have key : ∀ k : Fin 64, (aluFnOf k.val).code = k.val ∧ (aluFnOf k.val).wellFormed = true := by decide
  exact key ⟨n, h⟩

theorem Dest.code_lt (d : Dest) : d.code < 512 := by
  obtain ⟨a, b, c, d, e, f, g, h, i⟩ := d
  cases a <;> cases b <;> cases c <;> cases d <;> cases e <;> cases f <;> cases g <;> cases h <;> cases i <;> decide

theorem getBit_eq_field (w : ControlBits) (p : Nat) : getBit w p = decide (field w p 1 = 1) := by
  simp [getBit, field, BitVec.getLsbD, Nat.testBit_eq_decide_div_mod_eq]

theorem field_lt (w : ControlBits) (o n : Nat) : field w o n < 2 ^ n := Nat.mod_lt _ (Nat.two_pow_pos n)

theorem getBit_toNat (w : ControlBits) (p : Nat) : (getBit w p).toNat = field w p 1 := by
  rw [getBit_eq_field]
  have := field_lt w p 1
  by_cases h : field w p 1 = 1 <;> simp [h]; omega

/-- A field is its low part and its high part. -/
theorem field_split (w : ControlBits) (o a b : Nat) : field w o (a+b) = field w o a + 2^a * field w (o+a) b := by
  unfold field
  rw [Nat.pow_add 2 o a, ← Nat.div_div_eq_div_mul, Nat.pow_add]
  generalize w.toNat / 2^o = x
  exact Nat.mod_mul

/-- A field bit by bit. -/
theorem testBit_field (w : ControlBits) (o n k : Nat) : (field w o n).testBit k = (decide (k < n) && w.getLsbD (o + k)) := by
  rw [field, Nat.testBit_mod_two_pow, Nat.testBit_div_two_pow, BitVec.getLsbD, Nat.add_comm]

/-- What the fields of an encoded word are made of. -/
theorem encodeMicro_toNat (m : Micro) : (encodeMicro m).toNat
    = m.bsrc.code + 2 ^ 4 * m.fetch.toNat + 2 ^ 5 * m.rd.toNat + 2 ^ 6 * m.wr.toNat
      + 2 ^ 7 * m.dest.code + 2 ^ 16 * m.alu.code + 2 ^ 22 * m.sra1.toNat + 2 ^ 23 * m.sll8.toNat
      + 2 ^ 24 * m.jamz.toNat + 2 ^ 25 * m.jamn.toNat + 2 ^ 26 * m.jmpc.toNat + 2 ^ 27 * m.addr.toNat := by
  have h1 := m.bsrc.code_lt
  have h2 := m.fetch.toNat_lt
  have h3 := m.rd.toNat_lt
  have h4 := m.wr.toNat_lt
  have h5 := m.dest.code_lt
  have h6 := m.alu.code_lt
  have h7 := m.sra1.toNat_lt
  have h8 := m.sll8.toNat_lt
  have h9 := m.jamz.toNat_lt
  have h10 := m.jamn.toNat_lt
  have h11 := m.jmpc.toNat_lt
  have h12 := m.addr.isLt
  rw [encodeMicro, BitVec.toNat_ofNat, Nat.mod_eq_of_lt (by omega)]

section Fields

variable (m : Micro)

theorem field_encodeMicro_b : field (encodeMicro m) 0 4 = m.bsrc.code := by
  have h1 := m.bsrc.code_lt
  have h6 := m.alu.code_lt
  rw [field, encodeMicro_toNat]
  omega

theorem field_encodeMicro_fetch : field (encodeMicro m) 4 1 = m.fetch.toNat := by
  have h1 := m.bsrc.code_lt
  have h2 := m.fetch.toNat_lt
  rw [field, encodeMicro_toNat]
  omega

theorem field_encodeMicro_rd : field (encodeMicro m) 5 1 = m.rd.toNat := by
  have h1 := m.bsrc.code_lt
  have h2 := m.fetch.toNat_lt
  have h3 := m.rd.toNat_lt
  rw [field, encodeMicro_toNat]
  omega

theorem field_encodeMicro_wr : field (encodeMicro m) 6 1 = m.wr.toNat := by
  have h1 := m.bsrc.code_lt
  have h2 := m.fetch.toNat_lt
  have h3 := m.rd.toNat_lt
  have h4 := m.wr.toNat_lt
  rw [field, encodeMicro_toNat]
  omega

theorem low7_encodeMicro : (encodeMicro m).toNat % 2 ^ 7
    = m.bsrc.code + 2 ^ 4 * m.fetch.toNat + 2 ^ 5 * m.rd.toNat + 2 ^ 6 * m.wr.toNat := by
  have h1 := m.bsrc.code_lt
  have h2 := m.fetch.toNat_lt
  have h3 := m.rd.toNat_lt
  have h4 := m.wr.toNat_lt
  rw [encodeMicro_toNat]
  omega

theorem high_encodeMicro : (encodeMicro m).toNat / 2 ^ 7
    = m.dest.code + 2 ^ 9 * m.alu.code + 2 ^ 15 * m.sra1.toNat + 2 ^ 16 * m.sll8.toNat
      + 2 ^ 17 * m.jamz.toNat + 2 ^ 18 * m.jamn.toNat + 2 ^ 19 * m.jmpc.toNat + 2 ^ 20 * m.addr.toNat := by
  have h1 := m.bsrc.code_lt
  have h2 := m.fetch.toNat_lt
  have h3 := m.rd.toNat_lt
  have h4 := m.wr.toNat_lt
  rw [encodeMicro_toNat]
  omega

theorem field_encodeMicro_c : field (encodeMicro m) 7 9 = m.dest.code := by
  have h5 := m.dest.code_lt
  rw [field, high_encodeMicro]
  omega

theorem field_encodeMicro_alu : field (encodeMicro m) 16 6 = m.alu.code := by
  have h5 := m.dest.code_lt
  have h6 := m.alu.code_lt
  have h := high_encodeMicro m
  rw [field, show (2 : Nat) ^ 16 = 2 ^ 7 * 2 ^ 9 from rfl, ← Nat.div_div_eq_div_mul, h]
  omega

theorem top_encodeMicro : (encodeMicro m).toNat / 2 ^ 22
    = m.sra1.toNat + 2 * m.sll8.toNat + 4 * m.jamz.toNat + 8 * m.jamn.toNat + 16 * m.jmpc.toNat + 32 * m.addr.toNat := by
  have h5 := m.dest.code_lt
  have h6 := m.alu.code_lt
  have h := high_encodeMicro m
  rw [show (2 : Nat) ^ 22 = 2 ^ 7 * 2 ^ 15 from rfl, ← Nat.div_div_eq_div_mul, h]
  omega

theorem field_encodeMicro_top (k n : Nat) : field (encodeMicro m) (22 + k) n
    = (m.sra1.toNat + 2 * m.sll8.toNat + 4 * m.jamz.toNat + 8 * m.jamn.toNat + 16 * m.jmpc.toNat + 32 * m.addr.toNat)
      / 2 ^ k % 2 ^ n := by
  rw [field, Nat.pow_add, ← Nat.div_div_eq_div_mul, top_encodeMicro]

theorem field_encodeMicro_shift : field (encodeMicro m) 22 2 = m.sra1.toNat + 2 * m.sll8.toNat := by
  have h1 := m.sra1.toNat_lt
  have h2 := m.sll8.toNat_lt
  rw [field_encodeMicro_top m 0 2]
  omega

theorem field_encodeMicro_next : field (encodeMicro m) 24 3 = m.jamz.toNat + 2 * m.jamn.toNat + 4 * m.jmpc.toNat := by
  have h1 := m.sra1.toNat_lt
  have h2 := m.sll8.toNat_lt
  have h3 := m.jamz.toNat_lt
  have h4 := m.jamn.toNat_lt
  have h5 := m.jmpc.toNat_lt
  rw [field_encodeMicro_top m 2 3]
  omega

theorem field_encodeMicro_addr : field (encodeMicro m) 27 9 = m.addr.toNat := by
  have h1 := m.sra1.toNat_lt
  have h2 := m.sll8.toNat_lt
  have h3 := m.jamz.toNat_lt
  have h4 := m.jamn.toNat_lt
  have h5 := m.jmpc.toNat_lt
  have h6 := m.addr.isLt
  rw [field_encodeMicro_top m 5 9]
  omega

theorem field_encodeMicro_unused : field (encodeMicro m) 36 4 = 0 := by
  have h1 := m.sra1.toNat_lt
  have h2 := m.sll8.toNat_lt
  have h3 := m.jamz.toNat_lt
  have h4 := m.jamn.toNat_lt
  have h5 := m.jmpc.toNat_lt
  have h6 := m.addr.isLt
  rw [field_encodeMicro_top m 14 4]
  omega

end Fields

-- ## Text and bytes

theorem hexText_length (k n : Nat) : (hexText k n).length = k := by
  induction k generalizing n with
  | zero => rfl
  | succ k ih => simp [hexText, ih]

/-- Reading digits after those already read. -/
theorem parseHex_foldl_hexText (k n a : Nat) :
    (hexText k n).foldl (fun acc c => acc.bind fun n => (hexValue c).map fun d => 16 * n + d) (some a)
      = some (16 ^ k * a + n % 16 ^ k) := by
  induction k generalizing a with
  | zero => simp [hexText, Nat.mod_one]
  | succ k ih =>
    have hd : ∀ m, m < 16 → hexValue (hexDigit m) = some m := by intro m hm; interval_cases m <;> rfl
    simp only [hexText, List.foldl_cons, Option.bind_some, hd _ (Nat.mod_lt _ (by decide)), Option.map_some]
    rw [ih]
    congr 1
    rw [Nat.pow_succ, Nat.mod_mul, Nat.mul_add]
    ring

/-- The bytes of a word as one number (R93). -/
theorem wordOf_toNat (b0 b1 b2 b3 b4 : Byte) :
    (wordOf b0 b1 b2 b3 b4).toNat
      = b0.toNat + 256 * b1.toNat + 65536 * b2.toNat + 16777216 * b3.toNat + 4294967296 * b4.toNat := by
  have := b0.isLt
  have := b1.isLt
  have := b2.isLt
  have := b3.isLt
  have := b4.isLt
  rw [wordOf, BitVec.toNat_append, BitVec.toNat_append, BitVec.toNat_append, BitVec.toNat_append]
  rw [← Nat.shiftLeft_add_eq_or_of_lt (by omega), ← Nat.shiftLeft_add_eq_or_of_lt (by omega),
    ← Nat.shiftLeft_add_eq_or_of_lt (by omega), ← Nat.shiftLeft_add_eq_or_of_lt (by omega)]
  simp only [Nat.shiftLeft_eq]; omega

end Sys2Proof
end

