-- ==== Sys2Proof/Laws/Store.lean ====
section
/-! SUPPORT. Sparse stores: a read after a write, and that every write keeps the canonical form. -/

namespace Sys2Proof.Machine

variable {w : Nat}

theorem Store.wfFrom_cons (lo k : Nat) (v : BitVec w) (rest : List (Nat × BitVec w)) :
    Store.wfFrom lo ((k, v) :: rest) = true ↔ (lo ≤ k ∧ v ≠ 0#w) ∧ Store.wfFrom (k + 1) rest = true := by
  simp [Store.wfFrom]

theorem Store.below_cons (hi k : Nat) (v : BitVec w) (rest : List (Nat × BitVec w)) :
    Store.below hi ((k, v) :: rest) = true ↔ k < hi ∧ Store.below hi rest = true := by
  simp only [Store.below, List.all_cons, Bool.and_eq_true, decide_eq_true_eq]

theorem Store.wfFrom_mono {lo lo' : Nat} {st : List (Nat × BitVec w)} (hle : lo' ≤ lo) (h : Store.wfFrom lo st = true) :
    Store.wfFrom lo' st = true := by
  cases st with
  | nil => rfl
  | cons c rest =>
    rw [Store.wfFrom_cons] at h ⊢
    exact ⟨⟨by omega, h.1.2⟩, h.2⟩

/-- A store whose indexes start above an index holds 0 there. -/
theorem Store.read_below {lo a : Nat} {st : List (Nat × BitVec w)} (h : Store.wfFrom lo st = true) (ha : a < lo) :
    Store.read st a = 0#w := by
  induction st generalizing lo with
  | nil => rfl
  | cons c rest ih =>
    obtain ⟨k, u⟩ := c
    rw [Store.wfFrom_cons] at h
    have hne : a ≠ k := by omega
    simp [Store.read, hne, ih h.2 (by omega)]

theorem Store.write_wfFrom {lo a : Nat} {st : List (Nat × BitVec w)} (v : BitVec w) (h : Store.wfFrom lo st = true)
    (ha : lo ≤ a) : Store.wfFrom lo (Store.write st a v) = true := by
  induction st generalizing lo with
  | nil => unfold Store.write; split <;> simp_all [Store.wfFrom]
  | cons c rest ih =>
    obtain ⟨k, u⟩ := c
    have h' := (Store.wfFrom_cons ..).mp h
    unfold Store.write
    split
    · split
      · exact h
      · simp only [Store.wfFrom_cons]
        exact ⟨⟨ha, ‹_›⟩, ⟨by omega, h'.1.2⟩, h'.2⟩
    · split
      · subst_vars
        split
        · exact Store.wfFrom_mono (by omega) h'.2
        · exact (Store.wfFrom_cons ..).mpr ⟨⟨ha, ‹_›⟩, h'.2⟩
      · exact (Store.wfFrom_cons ..).mpr ⟨h'.1, ih h'.2 (by omega)⟩

/-- A write keeps the canonical form. -/
theorem Store.write_wf {st : List (Nat × BitVec w)} (a : Nat) (v : BitVec w) (h : Store.wf st = true) :
    Store.wf (Store.write st a v) = true := Store.write_wfFrom v h (Nat.zero_le a)

/-- A write at an index below a bound lists nothing at or above the bound. -/
theorem Store.write_below {hi a : Nat} {st : List (Nat × BitVec w)} (v : BitVec w) (h : Store.below hi st = true)
    (ha : a < hi) : Store.below hi (Store.write st a v) = true := by
  induction st with
  | nil => unfold Store.write; split <;> simp_all [Store.below]
  | cons c rest ih =>
    obtain ⟨k, u⟩ := c
    have h' := (Store.below_cons ..).mp h
    unfold Store.write
    repeat' split
    · exact h
    · exact (Store.below_cons ..).mpr ⟨ha, h⟩
    · exact h'.2
    · exact (Store.below_cons ..).mpr ⟨ha, h'.2⟩
    · exact (Store.below_cons ..).mpr ⟨h'.1, ih h'.2⟩

theorem Store.read_write_wfFrom {lo a : Nat} {st : List (Nat × BitVec w)} (v : BitVec w) (h : Store.wfFrom lo st = true)
    (b : Nat) : Store.read (Store.write st a v) b = if b = a then v else Store.read st b := by
  induction st generalizing lo with
  | nil =>
    by_cases hv : v = 0#w <;> by_cases hb : b = a <;> simp [Store.write, Store.read, hv, hb]
  | cons c rest ih =>
    obtain ⟨k, u⟩ := c
    rw [Store.wfFrom_cons] at h
    have hih := ih h.2
    unfold Store.write
    by_cases h1 : a < k
    · simp only [h1, if_true]
      by_cases hv : v = 0#w
      · simp only [hv, if_true]
        by_cases hb : b = a
        · subst hb
          have hne : b ≠ k := by omega
          simp [Store.read, hne, Store.read_below h.2 (by omega : b < k + 1)]
        · simp [hb]
      · simp [hv, Store.read]
    · simp only [h1, if_false]
      by_cases h2 : a = k
      · subst h2
        simp only [if_true]
        by_cases hv : v = 0#w
        · simp only [hv, if_true]
          by_cases hb : b = a
          · subst hb; simp [Store.read_below h.2 (by omega : b < b + 1)]
          · simp [Store.read, hb]
        · by_cases hb : b = a <;> simp [hv, hb, Store.read]
      · simp only [h2, if_false, Store.read, hih]
        by_cases hb : b = k
        · subst hb; simp [Ne.symm h2]
        · simp [hb]

/-- A read after a write: the value written at its index, what was there before at every other. -/
theorem Store.read_write {st : List (Nat × BitVec w)} (a : Nat) (v : BitVec w) (h : Store.wf st = true) (b : Nat) :
    Store.read (Store.write st a v) b = if b = a then v else Store.read st b := Store.read_write_wfFrom v h b

/-- Canonical stores that read the same everywhere are equal. -/
theorem Store.eq_of_read_eq {lo : Nat} {s t : List (Nat × BitVec w)} (hs : Store.wfFrom lo s = true)
    (ht : Store.wfFrom lo t = true) (h : ∀ a, Store.read s a = Store.read t a) : s = t := by
  induction s generalizing lo t with
  | nil =>
    cases t with
    | nil => rfl
    | cons d t' =>
      simp [Store.wfFrom] at ht
      have := h d.1
      simp [Store.read] at this
      exact absurd this.symm ht.1.2
  | cons c s' ih =>
    simp [Store.wfFrom] at hs
    cases t with
    | nil =>
      have := h c.1
      simp [Store.read] at this
      exact absurd this hs.1.2
    | cons d t' =>
      simp [Store.wfFrom] at ht
      have hk : c.1 = d.1 := by
        rcases Nat.lt_trichotomy c.1 d.1 with hlt | heq | hgt
        · have h1 := h c.1
          have hne : c.1 ≠ d.1 := by omega
          simp [Store.read, hne, Store.read_below ht.2 (by omega : c.1 < d.1 + 1)] at h1
          exact absurd h1 hs.1.2
        · exact heq
        · have h1 := h d.1
          have hne : d.1 ≠ c.1 := by omega
          simp [Store.read, hne, Store.read_below hs.2 (by omega : d.1 < c.1 + 1)] at h1
          exact absurd h1.symm ht.1.2
      have hv : c.2 = d.2 := by simpa [Store.read, hk] using h c.1
      have hrest : s' = t' := by
        refine ih hs.2 (hk ▸ ht.2) fun a => ?_
        have h1 := h a
        by_cases ha : a = c.1
        · subst ha
          rw [Store.read_below hs.2 (by omega), Store.read_below ht.2 (by omega)]
        · have ha' : a ≠ d.1 := by omega
          simpa [Store.read, ha, ha'] using h1
      obtain ⟨ck, cv⟩ := c
      obtain ⟨dk, dv⟩ := d
      simp_all

end Sys2Proof.Machine
end

