-- ==== Sys2Proof/Laws/Memory.lean ====
section
/-! SUPPORT. The memory primitives over the byte view: what a word write changes, and the two views of one buffer
(20_memory.md R52 to R55). -/

namespace Sys2Proof.Machine

theorem Memory.writeWord_wf (order : ByteOrder) {m : Memory} (k : Nat) (v : Word) (h : Store.wf m = true) :
    Store.wf (Memory.writeWord order m k v) = true :=
  Store.write_wf _ _ (Store.write_wf _ _ (Store.write_wf _ _ (Store.write_wf _ _ h)))

theorem Memory.writeWord_below (order : ByteOrder) {hi : Nat} {m : Memory} (k : Nat) (v : Word)
    (h : Store.below hi m = true) (hk : 4 * k + 4 ≤ hi) : Store.below hi (Memory.writeWord order m k v) = true :=
  Store.write_below _ (Store.write_below _ (Store.write_below _ (Store.write_below _ h (by omega)) (by omega)) (by omega))
    (by omega)

/-- A word write changes exactly the four bytes 4k to 4k+3. -/
theorem Memory.read_writeWord (order : ByteOrder) {m : Memory} (k : Nat) (v : Word) (h : Store.wf m = true) (a : Nat) :
    Store.read (Memory.writeWord order m k v) a
      = if 4 * k ≤ a ∧ a < 4 * k + 4 then splitByte order v (a - 4 * k) else Store.read m a := by
  have h0 := Store.write_wf (4 * k) (splitByte order v 0) h
  have h1 := Store.write_wf (4 * k + 1) (splitByte order v 1) h0
  have h2 := Store.write_wf (4 * k + 2) (splitByte order v 2) h1
  unfold Memory.writeWord
  rw [Store.read_write _ _ h2, Store.read_write _ _ h1, Store.read_write _ _ h0, Store.read_write _ _ h]
  by_cases ha : 4 * k ≤ a ∧ a < 4 * k + 4
  · obtain ⟨j, rfl⟩ : ∃ j, a = 4 * k + j := ⟨a - 4 * k, by omega⟩
    have hj : j = 0 ∨ j = 1 ∨ j = 2 ∨ j = 3 := by omega
    rcases hj with rfl | rfl | rfl | rfl <;> simp
  · have e0 : a ≠ 4 * k := by omega
    have e1 : a ≠ 4 * k + 1 := by omega
    have e2 : a ≠ 4 * k + 2 := by omega
    have e3 : a ≠ 4 * k + 3 := by omega
    simp [e0, e1, e2, e3, ha]

/-- Splitting a word into its four bytes and joining them gives it back, in either byte order (R53). -/
theorem joinBytes_splitByte (order : ByteOrder) (v : Word) :
    joinBytes order (splitByte order v 0) (splitByte order v 1) (splitByte order v 2) (splitByte order v 3) = v := by
  cases order <;>
  · simp only [joinBytes, splitByte]
    ext i hi
    simp only [BitVec.getElem_append, BitVec.getElem_extractLsb']
    repeat' split
    all_goals
      rw [← BitVec.getLsbD_eq_getElem]
      congr 1
      omega

/-- The byte of a word at an offset, as a number (R53). -/
theorem extract_byte_toNat (v : Word) (j : Nat) : (v.extractLsb' (8 * j) 8).toNat = v.toNat / 256 ^ j % 256 := by
  simp [BitVec.extractLsb'_toNat, Nat.shiftRight_eq_div_pow, Nat.pow_mul]

/-- The word of four bytes, as a number (R53). -/
theorem append_bytes_toNat (b0 b1 b2 b3 : Byte) :
    (b3 ++ b2 ++ b1 ++ b0 : Word).toNat
      = b0.toNat + 256 * b1.toNat + 65536 * b2.toNat + 16777216 * b3.toNat := by
  have := b0.isLt
  have := b1.isLt
  have := b2.isLt
  have := b3.isLt
  rw [BitVec.toNat_append, BitVec.toNat_append, BitVec.toNat_append]
  rw [← Nat.shiftLeft_add_eq_or_of_lt (by omega), ← Nat.shiftLeft_add_eq_or_of_lt (by omega),
    ← Nat.shiftLeft_add_eq_or_of_lt (by omega)]
  simp only [Nat.shiftLeft_eq]; omega

/-- The bytes of a word write, through the state (R55, R162). -/
theorem State.memWriteWord_byteAt (s : State) (k v : Word) (h : Store.wf s.mem = true) (a : Nat) :
    (s.memWriteWord k v).byteAt a
      = if s.wordInRange k = true ∧ 4 * k.toNat ≤ a ∧ a < 4 * k.toNat + 4
        then splitByte s.params.byteOrder v (a - 4 * k.toNat) else s.byteAt a := by
  cases hr : s.wordInRange k <;>
    simp [State.memWriteWord, State.byteAt, hr, Memory.read_writeWord _ _ _ h]

end Sys2Proof.Machine
end

