-- ==== Sys2Proof/Laws/State.lean ====
section
/-! SUPPORT. One lemma per field and update of the state, for every field the update leaves alone, and the values of the
fields the landings and the arming set. -/

namespace Sys2Proof.Machine.State

variable (s : State)

@[simp] theorem setReg_mbr (r : Reg) (v : Word) : (s.setReg r v).mbr = s.mbr := rfl
@[simp] theorem setReg_mpc (r : Reg) (v : Word) : (s.setReg r v).mpc = s.mpc := rfl
@[simp] theorem setReg_cs (r : Reg) (v : Word) : (s.setReg r v).cs = s.cs := rfl
@[simp] theorem setReg_mem (r : Reg) (v : Word) : (s.setReg r v).mem = s.mem := rfl
@[simp] theorem setReg_pendRead (r : Reg) (v : Word) : (s.setReg r v).pendRead = s.pendRead := rfl
@[simp] theorem setReg_pendFetch (r : Reg) (v : Word) : (s.setReg r v).pendFetch = s.pendFetch := rfl
@[simp] theorem setReg_status (r : Reg) (v : Word) : (s.setReg r v).status = s.status := rfl
@[simp] theorem setReg_oorSeen (r : Reg) (v : Word) : (s.setReg r v).oorSeen = s.oorSeen := rfl
@[simp] theorem setReg_draws (r : Reg) (v : Word) : (s.setReg r v).draws = s.draws := rfl
@[simp] theorem setReg_params (r : Reg) (v : Word) : (s.setReg r v).params = s.params := rfl

@[simp] theorem memWriteWord_regs (k v : Word) : (s.memWriteWord k v).regs = s.regs := rfl
@[simp] theorem memWriteWord_mbr (k v : Word) : (s.memWriteWord k v).mbr = s.mbr := rfl
@[simp] theorem memWriteWord_mpc (k v : Word) : (s.memWriteWord k v).mpc = s.mpc := rfl
@[simp] theorem memWriteWord_cs (k v : Word) : (s.memWriteWord k v).cs = s.cs := rfl
@[simp] theorem memWriteWord_pendRead (k v : Word) : (s.memWriteWord k v).pendRead = s.pendRead := rfl
@[simp] theorem memWriteWord_pendFetch (k v : Word) : (s.memWriteWord k v).pendFetch = s.pendFetch := rfl
@[simp] theorem memWriteWord_status (k v : Word) : (s.memWriteWord k v).status = s.status := rfl
@[simp] theorem memWriteWord_draws (k v : Word) : (s.memWriteWord k v).draws = s.draws := rfl
@[simp] theorem memWriteWord_params (k v : Word) : (s.memWriteWord k v).params = s.params := rfl

@[simp] theorem landRead_mbr : s.landRead.mbr = s.mbr := rfl
@[simp] theorem landRead_mpc : s.landRead.mpc = s.mpc := rfl
@[simp] theorem landRead_cs : s.landRead.cs = s.cs := rfl
@[simp] theorem landRead_mem : s.landRead.mem = s.mem := rfl
@[simp] theorem landRead_pendFetch : s.landRead.pendFetch = s.pendFetch := rfl
@[simp] theorem landRead_status : s.landRead.status = s.status := rfl
@[simp] theorem landRead_draws : s.landRead.draws = s.draws := rfl
@[simp] theorem landRead_params : s.landRead.params = s.params := rfl

@[simp] theorem landFetch_regs : s.landFetch.regs = s.regs := rfl
@[simp] theorem landFetch_mpc : s.landFetch.mpc = s.mpc := rfl
@[simp] theorem landFetch_cs : s.landFetch.cs = s.cs := rfl
@[simp] theorem landFetch_mem : s.landFetch.mem = s.mem := rfl
@[simp] theorem landFetch_pendRead : s.landFetch.pendRead = s.pendRead := rfl
@[simp] theorem landFetch_status : s.landFetch.status = s.status := rfl
@[simp] theorem landFetch_draws : s.landFetch.draws = s.draws := rfl
@[simp] theorem landFetch_params : s.landFetch.params = s.params := rfl

@[simp] theorem land_mpc : s.land.mpc = s.mpc := rfl
@[simp] theorem land_cs : s.land.cs = s.cs := rfl
@[simp] theorem land_mem : s.land.mem = s.mem := rfl
@[simp] theorem land_status : s.land.status = s.status := rfl
@[simp] theorem land_draws : s.land.draws = s.draws := rfl
@[simp] theorem land_params : s.land.params = s.params := rfl

@[simp] theorem useDraw_regs (m : Micro) : (s.useDraw m).regs = s.regs := rfl
@[simp] theorem useDraw_mbr (m : Micro) : (s.useDraw m).mbr = s.mbr := rfl
@[simp] theorem useDraw_mpc (m : Micro) : (s.useDraw m).mpc = s.mpc := rfl
@[simp] theorem useDraw_cs (m : Micro) : (s.useDraw m).cs = s.cs := rfl
@[simp] theorem useDraw_mem (m : Micro) : (s.useDraw m).mem = s.mem := rfl
@[simp] theorem useDraw_pendRead (m : Micro) : (s.useDraw m).pendRead = s.pendRead := rfl
@[simp] theorem useDraw_pendFetch (m : Micro) : (s.useDraw m).pendFetch = s.pendFetch := rfl
@[simp] theorem useDraw_status (m : Micro) : (s.useDraw m).status = s.status := rfl
@[simp] theorem useDraw_oorSeen (m : Micro) : (s.useDraw m).oorSeen = s.oorSeen := rfl
@[simp] theorem useDraw_params (m : Micro) : (s.useDraw m).params = s.params := rfl

@[simp] theorem commit_mbr (d : Dest) (r : Word) : (s.commit d r).mbr = s.mbr := rfl
@[simp] theorem commit_mpc (d : Dest) (r : Word) : (s.commit d r).mpc = s.mpc := rfl
@[simp] theorem commit_cs (d : Dest) (r : Word) : (s.commit d r).cs = s.cs := rfl
@[simp] theorem commit_mem (d : Dest) (r : Word) : (s.commit d r).mem = s.mem := rfl
@[simp] theorem commit_pendRead (d : Dest) (r : Word) : (s.commit d r).pendRead = s.pendRead := rfl
@[simp] theorem commit_pendFetch (d : Dest) (r : Word) : (s.commit d r).pendFetch = s.pendFetch := rfl
@[simp] theorem commit_status (d : Dest) (r : Word) : (s.commit d r).status = s.status := rfl
@[simp] theorem commit_oorSeen (d : Dest) (r : Word) : (s.commit d r).oorSeen = s.oorSeen := rfl
@[simp] theorem commit_draws (d : Dest) (r : Word) : (s.commit d r).draws = s.draws := rfl
@[simp] theorem commit_params (d : Dest) (r : Word) : (s.commit d r).params = s.params := rfl

@[simp] theorem doWrite_regs (b : Bool) : (s.doWrite b).regs = s.regs := by cases b <;> rfl
@[simp] theorem doWrite_mbr (b : Bool) : (s.doWrite b).mbr = s.mbr := by cases b <;> rfl
@[simp] theorem doWrite_mpc (b : Bool) : (s.doWrite b).mpc = s.mpc := by cases b <;> rfl
@[simp] theorem doWrite_cs (b : Bool) : (s.doWrite b).cs = s.cs := by cases b <;> rfl
@[simp] theorem doWrite_pendRead (b : Bool) : (s.doWrite b).pendRead = s.pendRead := by cases b <;> rfl
@[simp] theorem doWrite_pendFetch (b : Bool) : (s.doWrite b).pendFetch = s.pendFetch := by cases b <;> rfl
@[simp] theorem doWrite_status (b : Bool) : (s.doWrite b).status = s.status := by cases b <;> rfl
@[simp] theorem doWrite_draws (b : Bool) : (s.doWrite b).draws = s.draws := by cases b <;> rfl
@[simp] theorem doWrite_params (b : Bool) : (s.doWrite b).params = s.params := by cases b <;> rfl

@[simp] theorem arm_regs (rd fetch : Bool) : (s.arm rd fetch).regs = s.regs := rfl
@[simp] theorem arm_mbr (rd fetch : Bool) : (s.arm rd fetch).mbr = s.mbr := rfl
@[simp] theorem arm_mpc (rd fetch : Bool) : (s.arm rd fetch).mpc = s.mpc := rfl
@[simp] theorem arm_cs (rd fetch : Bool) : (s.arm rd fetch).cs = s.cs := rfl
@[simp] theorem arm_mem (rd fetch : Bool) : (s.arm rd fetch).mem = s.mem := rfl
@[simp] theorem arm_status (rd fetch : Bool) : (s.arm rd fetch).status = s.status := rfl
@[simp] theorem arm_oorSeen (rd fetch : Bool) : (s.arm rd fetch).oorSeen = s.oorSeen := rfl
@[simp] theorem arm_draws (rd fetch : Bool) : (s.arm rd fetch).draws = s.draws := rfl
@[simp] theorem arm_params (rd fetch : Bool) : (s.arm rd fetch).params = s.params := rfl

@[simp] theorem advance_regs (m : Micro) (f r : Word) : (s.advance m f r).regs = s.regs := rfl
@[simp] theorem advance_mbr (m : Micro) (f r : Word) : (s.advance m f r).mbr = s.mbr := rfl
@[simp] theorem advance_cs (m : Micro) (f r : Word) : (s.advance m f r).cs = s.cs := rfl
@[simp] theorem advance_mem (m : Micro) (f r : Word) : (s.advance m f r).mem = s.mem := rfl
@[simp] theorem advance_pendRead (m : Micro) (f r : Word) : (s.advance m f r).pendRead = s.pendRead := rfl
@[simp] theorem advance_pendFetch (m : Micro) (f r : Word) : (s.advance m f r).pendFetch = s.pendFetch := rfl
@[simp] theorem advance_status (m : Micro) (f r : Word) : (s.advance m f r).status = s.status := rfl
@[simp] theorem advance_oorSeen (m : Micro) (f r : Word) : (s.advance m f r).oorSeen = s.oorSeen := rfl
@[simp] theorem advance_draws (m : Micro) (f r : Word) : (s.advance m f r).draws = s.draws := rfl
@[simp] theorem advance_params (m : Micro) (f r : Word) : (s.advance m f r).params = s.params := rfl

@[simp] theorem placeWord_regs (w : ControlBits) : (s.placeWord w).regs = s.regs := rfl
@[simp] theorem placeWord_mbr (w : ControlBits) : (s.placeWord w).mbr = s.mbr := rfl
@[simp] theorem placeWord_mpc (w : ControlBits) : (s.placeWord w).mpc = s.mpc := rfl
@[simp] theorem placeWord_mem (w : ControlBits) : (s.placeWord w).mem = s.mem := rfl
@[simp] theorem placeWord_pendRead (w : ControlBits) : (s.placeWord w).pendRead = s.pendRead := rfl
@[simp] theorem placeWord_pendFetch (w : ControlBits) : (s.placeWord w).pendFetch = s.pendFetch := rfl
@[simp] theorem placeWord_oorSeen (w : ControlBits) : (s.placeWord w).oorSeen = s.oorSeen := rfl
@[simp] theorem placeWord_draws (w : ControlBits) : (s.placeWord w).draws = s.draws := rfl
@[simp] theorem placeWord_params (w : ControlBits) : (s.placeWord w).params = s.params := rfl

@[simp] theorem afterFault_regs (f : Fault) : (s.afterFault f).regs = s.regs := rfl
@[simp] theorem afterFault_mbr (f : Fault) : (s.afterFault f).mbr = s.mbr := rfl
@[simp] theorem afterFault_mpc (f : Fault) : (s.afterFault f).mpc = s.mpc := rfl
@[simp] theorem afterFault_cs (f : Fault) : (s.afterFault f).cs = s.cs := rfl
@[simp] theorem afterFault_mem (f : Fault) : (s.afterFault f).mem = s.mem := rfl
@[simp] theorem afterFault_pendRead (f : Fault) : (s.afterFault f).pendRead = s.pendRead := rfl
@[simp] theorem afterFault_pendFetch (f : Fault) : (s.afterFault f).pendFetch = s.pendFetch := rfl
@[simp] theorem afterFault_oorSeen (f : Fault) : (s.afterFault f).oorSeen = s.oorSeen := rfl
@[simp] theorem afterFault_draws (f : Fault) : (s.afterFault f).draws = s.draws := rfl
@[simp] theorem afterFault_params (f : Fault) : (s.afterFault f).params = s.params := rfl

@[simp] theorem land_pendRead : s.land.pendRead = false := rfl
@[simp] theorem land_pendFetch : s.land.pendFetch = false := rfl
@[simp] theorem arm_pendRead (rd fetch : Bool) : (s.arm rd fetch).pendRead = (s.pendRead || rd) := rfl
@[simp] theorem arm_pendFetch (rd fetch : Bool) : (s.arm rd fetch).pendFetch = (s.pendFetch || fetch) := rfl
@[simp] theorem afterFault_status (f : Fault) : (s.afterFault f).status = .faulted f := rfl
@[simp] theorem placeWord_status (w : ControlBits) : (s.placeWord w).status = .running := rfl

end Sys2Proof.Machine.State
end

