-- ==== Sys2Proof/Laws/Regs.lean ====
section
/-! SUPPORT. The register file: a read after a write, the C-bus commit (R180) and the landings, register by register. -/

namespace Sys2Proof.Machine

theorem Regs.get_set (g : Regs) (r x : Reg) (v : Word) : (g.set r v).get x = if x = r then v else g.get x := by
  cases r <;> cases x <;> rfl

theorem Regs.ext_get {g k : Regs} (h : ∀ x, g.get x = k.get x) : g = k := by
  cases g
  cases k
  simp only [Regs.mk.injEq]
  exact ⟨h .mar, h .mdr, h .pc, h .sp, h .lv, h .cpp, h .tos, h .opc, h .h⟩

theorem mem_cDests (x : Reg) : x ∈ cDests := by cases x <;> decide

theorem Regs.get_foldl_commit (l : List Reg) (has : Reg → Bool) (r : Word) (g : Regs) (x : Reg) :
    (l.foldl (fun g x => if has x then g.set x r else g) g).get x
      = if x ∈ l ∧ has x = true then r else g.get x := by
  induction l generalizing g with
  | nil => simp
  | cons y ys ih =>
    simp only [List.foldl_cons, ih]
    by_cases hy : has y = true
    · by_cases hx : x = y
      · subst hx; simp [hy, Regs.get_set]
      · simp [hy, Regs.get_set, hx]
    · by_cases hx : x = y
      · subst hx; simp [hy]
      · simp [hy, hx]

/-- R180: every register whose C bit is set gets r, and no other register changes. -/
theorem State.commit_reg (s : State) (d : Dest) (r : Word) (x : Reg) :
    (s.commit d r).reg x = if d.has x = true then r else s.reg x := by
  simp [State.commit, State.reg, Regs.get_foldl_commit, mem_cDests]

/-- Step 5 changes no register but MDR, and MDR only by a pending read (R161). -/
theorem State.land_reg (s : State) (x : Reg) :
    s.land.reg x = if x = .mdr ∧ s.pendRead = true then s.memReadWord (s.reg .mar) else s.reg x := by
  cases hp : s.pendRead <;> simp [State.land, State.landFetch, State.landRead, State.reg, hp, Regs.get_set]

theorem State.landRead_reg_pc (s : State) : s.landRead.reg .pc = s.reg .pc := by
  cases hp : s.pendRead <;> simp [State.landRead, State.reg, hp, Regs.get_set]

/-- Step 5 changes MBR only by a pending fetch, from the byte at PC (R164). -/
theorem State.land_mbr (s : State) :
    s.land.mbr = if s.pendFetch = true then s.memReadByte (s.reg .pc) else s.mbr := by
  rw [← State.landRead_reg_pc]
  rfl

/-- Step 5 sets OOR_SEEN when a landing is out of range (R65). -/
theorem State.land_oorSeen (s : State) :
    s.land.oorSeen = (s.oorSeen || (s.pendRead && !s.wordInRange (s.reg .mar))
      || (s.pendFetch && !s.byteInRange (s.reg .pc))) := by
  rw [← State.landRead_reg_pc]
  rfl

theorem State.doWrite_reg (s : State) (b : Bool) (x : Reg) : (s.doWrite b).reg x = s.reg x := by
  cases b <;> rfl

end Sys2Proof.Machine
end

