-- ==== Sys2Proof/Laws/Cycle.lean ====
section
/-! SUPPORT. Everything one cycle can do (40_cycle.md R122), field by field: later proofs cite these and never unfold
`cycleOf`. -/

namespace Sys2Proof.Machine

variable (m : Micro) (s : State)

/-- N is the sign of a word (R223). -/
theorem nFlag_eq (v : Word) : nFlag v = decide (v.toInt < 0) := by
  rw [nFlag, show v.getLsbD 31 = v.msb by simp [BitVec.msb_eq_getLsbD_last], BitVec.msb_eq_toInt]

/-- SRA1 is the arithmetic right shift by one (R218). -/
theorem sra1Of_eq_sshiftRight (f : Word) : sra1Of f = f.sshiftRight 1 := by
  unfold sra1Of
  apply BitVec.eq_of_getLsbD_eq
  intro i hi
  by_cases h : i = 31
  · subst h
    rw [BitVec.getLsbD_or, BitVec.getLsbD_and, BitVec.getLsbD_sshiftRight]
    simp [BitVec.msb_eq_getLsbD_last]
  · have h31 : (0x80000000#32).getLsbD i = false := by
      rw [show 0x80000000#32 = BitVec.twoPow 32 31 from rfl, BitVec.getLsbD_twoPow]
      simp [Ne.symm h]
    rw [BitVec.getLsbD_or, BitVec.getLsbD_and, h31, BitVec.getLsbD_sshiftRight]
    simp [show 1 + i < 32 by omega, hi]

theorem State.advance_mpc (f r : Word) : (s.advance m f r).mpc
    = nextAddress m (zFlag (tapped s.params.flagTap f r)) (nFlag (tapped s.params.flagTap f r)) s.mbr := rfl

/-- The state after step 6: what the write of step 7 sees. -/
def afterCommit : State := ((s.useDraw m).land).commit m.dest (result m s)

theorem cycleOf_eq : cycleOf m s =
    (((afterCommit m s).doWrite m.wr).arm m.rd m.fetch).advance m (aluOutput m s) (result m s) := rfl

/-- The registers after a cycle: the C-bus destinations hold r, MDR a landed word, and the rest is unchanged. -/
theorem cycleOf_reg (x : Reg) : (cycleOf m s).reg x
    = if m.dest.has x = true then result m s
      else if x = .mdr ∧ s.pendRead = true then s.memReadWord (s.reg .mar) else s.reg x := by
  have h1 : (cycleOf m s).reg x = (afterCommit m s).reg x := State.doWrite_reg ..
  rw [h1, afterCommit, State.commit_reg, State.land_reg]
  rfl

theorem afterCommit_reg (x : Reg) : (afterCommit m s).reg x = (cycleOf m s).reg x :=
  (State.doWrite_reg (afterCommit m s) m.wr x).symm

theorem cycleOf_mbr : (cycleOf m s).mbr = if s.pendFetch = true then s.memReadByte (s.reg .pc) else s.mbr := by
  have h1 : (cycleOf m s).mbr = (s.useDraw m).land.mbr := by
    rw [cycleOf_eq, State.advance_mbr, State.arm_mbr, State.doWrite_mbr]; rfl
  rw [h1, State.land_mbr]
  rfl

@[simp] theorem cycleOf_pendRead : (cycleOf m s).pendRead = m.rd := by
  rw [cycleOf_eq, State.advance_pendRead, State.arm_pendRead, State.doWrite_pendRead]; simp [afterCommit]

@[simp] theorem cycleOf_pendFetch : (cycleOf m s).pendFetch = m.fetch := by
  rw [cycleOf_eq, State.advance_pendFetch, State.arm_pendFetch, State.doWrite_pendFetch]; simp [afterCommit]

@[simp] theorem cycleOf_cs : (cycleOf m s).cs = s.cs := by
  rw [cycleOf_eq]; simp [afterCommit]

@[simp] theorem cycleOf_status : (cycleOf m s).status = s.status := by
  rw [cycleOf_eq]; simp [afterCommit]

@[simp] theorem cycleOf_params : (cycleOf m s).params = s.params := by
  rw [cycleOf_eq]; simp [afterCommit]

theorem cycleOf_draws : (cycleOf m s).draws = if usesDraw m.alu = true then s.draws + 1 else s.draws := by
  rw [cycleOf_eq]; simp [afterCommit]; rfl

@[simp] theorem afterCommit_mem : (afterCommit m s).mem = s.mem := rfl

@[simp] theorem afterCommit_params : (afterCommit m s).params = s.params := rfl

/-- The memory after a cycle: the write of step 7 and nothing else. -/
theorem cycleOf_mem : (cycleOf m s).mem
    = ((afterCommit m s).doWrite m.wr).mem := rfl

theorem wordInRange_congr {s t : State} (h : s.params = t.params) (k : Word) : s.wordInRange k = t.wordInRange k := by
  simp [State.wordInRange, h]

/-- Every byte of memory after a cycle: a write changes the four bytes of word MAR to those of MDR, both as they are
after the commit (R162), and nothing else changes memory. -/
theorem cycleOf_byteAt (h : Store.wf s.mem = true) (a : Nat) : (cycleOf m s).byteAt a
    = if m.wr = true ∧ s.wordInRange ((cycleOf m s).reg .mar) = true
          ∧ 4 * ((cycleOf m s).reg .mar).toNat ≤ a ∧ a < 4 * ((cycleOf m s).reg .mar).toNat + 4
      then splitByte s.params.byteOrder ((cycleOf m s).reg .mdr) (a - 4 * ((cycleOf m s).reg .mar).toNat)
      else s.byteAt a := by
  have hb : (cycleOf m s).byteAt a = ((afterCommit m s).doWrite m.wr).byteAt a := rfl
  rw [hb, ← afterCommit_reg, ← afterCommit_reg, ← wordInRange_congr (afterCommit_params m s)]
  cases hw : m.wr
  · simp [State.doWrite, State.byteAt]
  · simp only [State.doWrite, if_true, true_and]
    rw [State.memWriteWord_byteAt _ _ _ (by simpa using h)]
    simp [State.byteAt]

/-- OOR_SEEN after a cycle (R65): set by a landing or a write out of range, never cleared. -/
theorem cycleOf_oorSeen : (cycleOf m s).oorSeen
    = (s.oorSeen || (s.pendRead && !s.wordInRange (s.reg .mar)) || (s.pendFetch && !s.byteInRange (s.reg .pc))
        || (m.wr && !s.wordInRange ((cycleOf m s).reg .mar))) := by
  have hb : (cycleOf m s).oorSeen = ((afterCommit m s).doWrite m.wr).oorSeen := rfl
  have hc : (afterCommit m s).oorSeen = (s.useDraw m).land.oorSeen := rfl
  rw [hb, ← afterCommit_reg, ← wordInRange_congr (afterCommit_params m s)]
  cases hw : m.wr
  · simp only [State.doWrite, Bool.false_eq_true, if_false, hc, State.land_oorSeen, Bool.false_and, Bool.or_false]
    rfl
  · simp only [State.doWrite, if_true, Bool.true_and]
    show ((afterCommit m s).oorSeen || _) = _
    rw [hc, State.land_oorSeen]
    rfl

/-- The next microprogram counter (R240): from the tapped result and from MBR after the landing. -/
theorem cycleOf_mpc : (cycleOf m s).mpc
    = nextAddress m (zFlag (tapped s.params.flagTap (aluOutput m s) (result m s)))
        (nFlag (tapped s.params.flagTap (aluOutput m s) (result m s))) (cycleOf m s).mbr := by
  have hp : (((afterCommit m s).doWrite m.wr).arm m.rd m.fetch).params = s.params := by simp
  conv_lhs => rw [cycleOf_eq, State.advance_mpc, hp]
  rfl

/-- A cycle keeps the memory's canonical form and its bound. -/
theorem cycleOf_mem_wf (h : Store.wf s.mem = true) : Store.wf (cycleOf m s).mem = true := by
  rw [cycleOf_mem]
  cases hw : m.wr
  · simpa [State.doWrite] using h
  · simp only [State.doWrite, if_true, State.memWriteWord]
    split
    · exact Memory.writeWord_wf _ _ _ (by simpa using h)
    · simpa using h

theorem cycleOf_mem_below (h : Store.below s.params.memBytes s.mem = true) :
    Store.below s.params.memBytes (cycleOf m s).mem = true := by
  rw [cycleOf_mem]
  cases hw : m.wr
  · simpa [State.doWrite] using h
  · simp only [State.doWrite, if_true, State.memWriteWord]
    split
    · rename_i hr
      exact Memory.writeWord_below _ _ _ (by simpa using h) (of_decide_eq_true hr)
    · simpa using h

end Sys2Proof.Machine
end

