-- ==== Sys2Proof/Laws/PerInstr.lean ====
section
/-! SUPPORT. The family TableMatch: the word of every instruction holds its row's field value as opcode_table.json gives
it (the row's bits and value), and bits 39..36 are 0 (30_encoding.md R82). The table is written out here from the file, apart
from the encoder's own tables. -/

namespace Sys2Proof.Laws.TableMatch

/-- A row of opcode_table.json: the lowest of its bits, how many there are, and their value. -/
structure Row where
  lo : Nat
  width : Nat
  value : Nat

/-- The rows of opcode_table.json. -/
def row (i : Instr) : Row :=
  match i with
  | .bMdr _ => ⟨0, 4, 0⟩
  | .bPc _ => ⟨0, 4, 1⟩
  | .bMbr _ => ⟨0, 4, 2⟩
  | .bMbru _ => ⟨0, 4, 3⟩
  | .bSp _ => ⟨0, 4, 4⟩
  | .bLv _ => ⟨0, 4, 5⟩
  | .bCpp _ => ⟨0, 4, 6⟩
  | .bTos _ => ⟨0, 4, 7⟩
  | .bOpc _ => ⟨0, 4, 8⟩
  | .bReserved9 => ⟨0, 4, 9⟩
  | .bReserved10 => ⟨0, 4, 10⟩
  | .bReserved11 => ⟨0, 4, 11⟩
  | .bReserved12 => ⟨0, 4, 12⟩
  | .bReserved13 => ⟨0, 4, 13⟩
  | .bReserved14 => ⟨0, 4, 14⟩
  | .halt => ⟨0, 4, 15⟩
  | .memFetch _ => ⟨4, 1, 1⟩
  | .memRd _ => ⟨5, 1, 1⟩
  | .memWr _ => ⟨6, 1, 1⟩
  | .memRdFetch _ => ⟨4, 2, 3⟩
  | .memRdWr _ => ⟨5, 2, 3⟩
  | .cMar _ => ⟨7, 1, 1⟩
  | .cMdr _ => ⟨8, 1, 1⟩
  | .cPc _ => ⟨9, 1, 1⟩
  | .cSp _ => ⟨10, 1, 1⟩
  | .cLv _ => ⟨11, 1, 1⟩
  | .cCpp _ => ⟨12, 1, 1⟩
  | .cTos _ => ⟨13, 1, 1⟩
  | .cOpc _ => ⟨14, 1, 1⟩
  | .cH _ => ⟨15, 1, 1⟩
  | .cNone _ => ⟨7, 9, 0⟩
  | .aluH _ => ⟨16, 6, 24⟩
  | .aluB _ => ⟨16, 6, 20⟩
  | .aluNotH _ => ⟨16, 6, 26⟩
  | .aluNotB _ => ⟨16, 6, 44⟩
  | .aluHPlusB _ => ⟨16, 6, 60⟩
  | .aluHPlusBPlus1 _ => ⟨16, 6, 61⟩
  | .aluHPlus1 _ => ⟨16, 6, 57⟩
  | .aluBPlus1 _ => ⟨16, 6, 53⟩
  | .aluBMinusH _ => ⟨16, 6, 63⟩
  | .aluBMinus1 _ => ⟨16, 6, 55⟩
  | .aluNegH _ => ⟨16, 6, 59⟩
  | .aluHAndB _ => ⟨16, 6, 12⟩
  | .aluHOrB _ => ⟨16, 6, 28⟩
  | .aluZero _ => ⟨16, 6, 16⟩
  | .aluOne _ => ⟨16, 6, 17⟩
  | .aluMinusOne _ => ⟨16, 6, 18⟩
  | .aluUndefined0x00 _ => ⟨16, 6, 0⟩
  | .aluUndefined0x01 _ => ⟨16, 6, 1⟩
  | .aluUndefined0x02 _ => ⟨16, 6, 2⟩
  | .aluUndefined0x03 _ => ⟨16, 6, 3⟩
  | .aluUndefined0x04 _ => ⟨16, 6, 4⟩
  | .aluUndefined0x05 _ => ⟨16, 6, 5⟩
  | .aluUndefined0x06 _ => ⟨16, 6, 6⟩
  | .aluUndefined0x07 _ => ⟨16, 6, 7⟩
  | .aluUndefined0x08 _ => ⟨16, 6, 8⟩
  | .aluUndefined0x09 _ => ⟨16, 6, 9⟩
  | .aluUndefined0x0A _ => ⟨16, 6, 10⟩
  | .aluUndefined0x0B _ => ⟨16, 6, 11⟩
  | .aluUndefined0x0D _ => ⟨16, 6, 13⟩
  | .aluUndefined0x0E _ => ⟨16, 6, 14⟩
  | .aluUndefined0x0F _ => ⟨16, 6, 15⟩
  | .aluUndefined0x13 _ => ⟨16, 6, 19⟩
  | .aluUndefined0x15 _ => ⟨16, 6, 21⟩
  | .aluUndefined0x16 _ => ⟨16, 6, 22⟩
  | .aluUndefined0x17 _ => ⟨16, 6, 23⟩
  | .aluUndefined0x19 _ => ⟨16, 6, 25⟩
  | .aluUndefined0x1B _ => ⟨16, 6, 27⟩
  | .aluUndefined0x1D _ => ⟨16, 6, 29⟩
  | .aluUndefined0x1E _ => ⟨16, 6, 30⟩
  | .aluUndefined0x1F _ => ⟨16, 6, 31⟩
  | .aluUndefined0x20 _ => ⟨16, 6, 32⟩
  | .aluUndefined0x21 _ => ⟨16, 6, 33⟩
  | .aluUndefined0x22 _ => ⟨16, 6, 34⟩
  | .aluUndefined0x23 _ => ⟨16, 6, 35⟩
  | .aluUndefined0x24 _ => ⟨16, 6, 36⟩
  | .aluUndefined0x25 _ => ⟨16, 6, 37⟩
  | .aluUndefined0x26 _ => ⟨16, 6, 38⟩
  | .aluUndefined0x27 _ => ⟨16, 6, 39⟩
  | .aluUndefined0x28 _ => ⟨16, 6, 40⟩
  | .aluUndefined0x29 _ => ⟨16, 6, 41⟩
  | .aluUndefined0x2A _ => ⟨16, 6, 42⟩
  | .aluUndefined0x2B _ => ⟨16, 6, 43⟩
  | .aluUndefined0x2D _ => ⟨16, 6, 45⟩
  | .aluUndefined0x2E _ => ⟨16, 6, 46⟩
  | .aluUndefined0x2F _ => ⟨16, 6, 47⟩
  | .aluUndefined0x30 _ => ⟨16, 6, 48⟩
  | .aluUndefined0x31 _ => ⟨16, 6, 49⟩
  | .aluUndefined0x32 _ => ⟨16, 6, 50⟩
  | .aluUndefined0x33 _ => ⟨16, 6, 51⟩
  | .aluUndefined0x34 _ => ⟨16, 6, 52⟩
  | .aluUndefined0x36 _ => ⟨16, 6, 54⟩
  | .aluUndefined0x38 _ => ⟨16, 6, 56⟩
  | .aluUndefined0x3A _ => ⟨16, 6, 58⟩
  | .aluUndefined0x3E _ => ⟨16, 6, 62⟩
  | .shNone _ => ⟨22, 2, 0⟩
  | .shSra1 _ => ⟨22, 2, 1⟩
  | .shSll8 _ => ⟨22, 2, 2⟩
  | .shSra1Sll8 _ => ⟨22, 2, 3⟩
  | .nextGoto _ => ⟨24, 3, 0⟩
  | .nextJamz _ => ⟨24, 3, 1⟩
  | .nextJamn _ => ⟨24, 3, 2⟩
  | .nextJmpc _ => ⟨24, 3, 4⟩
  | .nextJamzJamn _ => ⟨24, 3, 3⟩
  | .nextJamzJmpc _ => ⟨24, 3, 5⟩
  | .nextJamnJmpc _ => ⟨24, 3, 6⟩
  | .nextJamzJamnJmpc _ => ⟨24, 3, 7⟩
  | .unusedBits3936 _ => ⟨36, 4, 0⟩

/-- The instruction's word matches its row, and its unused bits are 0. -/
def Statement (i : Instr) : Prop :=
  field (encode i) (row i).lo (row i).width = (row i).value ∧ field (encode i) 36 4 = 0

theorem of_micro {i : Instr} (m : Micro) (h : i.control = .micro m)
    (hf : field (encodeMicro m) (row i).lo (row i).width = (row i).value) : Statement i := by
  have he : encode i = encodeMicro m := by simp [encode, h, encodeControl]
  exact ⟨he ▸ hf, he ▸ field_encodeMicro_unused m⟩

theorem field_encodeMicro_dest (m : Micro) (k : Nat) (hk : k < 9) :
    field (encodeMicro m) (7 + k) 1 = m.dest.code / 2 ^ k % 2 := by
  have h : m.dest.code = (encodeMicro m).toNat / 2 ^ 7 % 2 ^ 9 := (field_encodeMicro_c m).symm
  have hs : (2 : Nat) ^ 9 = 2 ^ k * (2 * 2 ^ (8 - k)) := by
    rw [← Nat.pow_succ', ← Nat.pow_add]
    congr 1
    omega
  rw [field, h, Nat.pow_add, ← Nat.div_div_eq_div_mul, hs, Nat.mod_mul_right_div_self, Nat.mod_mul_right_mod, Nat.pow_one]

theorem dest_code_add (d : Dest) (r : Reg) : (d.add r).code / 2 ^ r.cBit % 2 = 1 := by
  obtain ⟨a1, a2, a3, a4, a5, a6, a7, a8, a9⟩ := d
  have h1 := a1.toNat_lt
  have h2 := a2.toNat_lt
  have h3 := a3.toNat_lt
  have h4 := a4.toNat_lt
  have h5 := a5.toNat_lt
  have h6 := a6.toNat_lt
  have h7 := a7.toNat_lt
  have h8 := a8.toNat_lt
  have h9 := a9.toNat_lt
  cases r <;> simp only [Dest.add, Dest.code, Reg.cBit, Bool.toNat_true] <;> omega

theorem of_dest {i : Instr} (m : Micro) (r : Reg) (h : i.control = .micro (m.setDest r))
    (hr : row i = ⟨7 + r.cBit, 1, 1⟩) : Statement i := by
  refine of_micro _ h ?_
  rw [hr, field_encodeMicro_dest _ _ (by cases r <;> decide)]
  exact dest_code_add m.dest r

theorem field_encodeMicro_mem (m : Micro) : field (encodeMicro m) 4 2 = m.fetch.toNat + 2 * m.rd.toNat
    ∧ field (encodeMicro m) 5 2 = m.rd.toNat + 2 * m.wr.toNat := by
  have h1 := m.bsrc.code_lt
  have h2 := m.fetch.toNat_lt
  have h3 := m.rd.toNat_lt
  have h4 := m.wr.toNat_lt
  rw [field, field, encodeMicro_toNat]
  omega

theorem bMdr (m : Micro) : Statement (.bMdr m) := of_micro _ rfl (field_encodeMicro_b _)
theorem bPc (m : Micro) : Statement (.bPc m) := of_micro _ rfl (field_encodeMicro_b _)
theorem bMbr (m : Micro) : Statement (.bMbr m) := of_micro _ rfl (field_encodeMicro_b _)
theorem bMbru (m : Micro) : Statement (.bMbru m) := of_micro _ rfl (field_encodeMicro_b _)
theorem bSp (m : Micro) : Statement (.bSp m) := of_micro _ rfl (field_encodeMicro_b _)
theorem bLv (m : Micro) : Statement (.bLv m) := of_micro _ rfl (field_encodeMicro_b _)
theorem bCpp (m : Micro) : Statement (.bCpp m) := of_micro _ rfl (field_encodeMicro_b _)
theorem bTos (m : Micro) : Statement (.bTos m) := of_micro _ rfl (field_encodeMicro_b _)
theorem bOpc (m : Micro) : Statement (.bOpc m) := of_micro _ rfl (field_encodeMicro_b _)
theorem bReserved9 : Statement .bReserved9 := ⟨rfl, rfl⟩
theorem bReserved10 : Statement .bReserved10 := ⟨rfl, rfl⟩
theorem bReserved11 : Statement .bReserved11 := ⟨rfl, rfl⟩
theorem bReserved12 : Statement .bReserved12 := ⟨rfl, rfl⟩
theorem bReserved13 : Statement .bReserved13 := ⟨rfl, rfl⟩
theorem bReserved14 : Statement .bReserved14 := ⟨rfl, rfl⟩
theorem halt : Statement .halt := ⟨rfl, rfl⟩
theorem memFetch (m : Micro) : Statement (.memFetch m) := of_micro _ rfl (field_encodeMicro_fetch _)
theorem memRd (m : Micro) : Statement (.memRd m) := of_micro _ rfl (field_encodeMicro_rd _)
theorem memWr (m : Micro) : Statement (.memWr m) := of_micro _ rfl (field_encodeMicro_wr _)
theorem memRdFetch (m : Micro) : Statement (.memRdFetch m) := of_micro _ rfl ((field_encodeMicro_mem _).1)
theorem memRdWr (m : Micro) : Statement (.memRdWr m) := of_micro _ rfl ((field_encodeMicro_mem _).2)
theorem cMar (m : Micro) : Statement (.cMar m) := of_dest m .mar rfl rfl
theorem cMdr (m : Micro) : Statement (.cMdr m) := of_dest m .mdr rfl rfl
theorem cPc (m : Micro) : Statement (.cPc m) := of_dest m .pc rfl rfl
theorem cSp (m : Micro) : Statement (.cSp m) := of_dest m .sp rfl rfl
theorem cLv (m : Micro) : Statement (.cLv m) := of_dest m .lv rfl rfl
theorem cCpp (m : Micro) : Statement (.cCpp m) := of_dest m .cpp rfl rfl
theorem cTos (m : Micro) : Statement (.cTos m) := of_dest m .tos rfl rfl
theorem cOpc (m : Micro) : Statement (.cOpc m) := of_dest m .opc rfl rfl
theorem cH (m : Micro) : Statement (.cH m) := of_dest m .h rfl rfl
theorem cNone (m : Micro) : Statement (.cNone m) := of_micro _ rfl (field_encodeMicro_c _)
theorem aluH (m : Micro) : Statement (.aluH m) := of_micro _ rfl (field_encodeMicro_alu _)
theorem aluB (m : Micro) : Statement (.aluB m) := of_micro _ rfl (field_encodeMicro_alu _)
theorem aluNotH (m : Micro) : Statement (.aluNotH m) := of_micro _ rfl (field_encodeMicro_alu _)
theorem aluNotB (m : Micro) : Statement (.aluNotB m) := of_micro _ rfl (field_encodeMicro_alu _)
theorem aluHPlusB (m : Micro) : Statement (.aluHPlusB m) := of_micro _ rfl (field_encodeMicro_alu _)
theorem aluHPlusBPlus1 (m : Micro) : Statement (.aluHPlusBPlus1 m) := of_micro _ rfl (field_encodeMicro_alu _)
theorem aluHPlus1 (m : Micro) : Statement (.aluHPlus1 m) := of_micro _ rfl (field_encodeMicro_alu _)
theorem aluBPlus1 (m : Micro) : Statement (.aluBPlus1 m) := of_micro _ rfl (field_encodeMicro_alu _)
theorem aluBMinusH (m : Micro) : Statement (.aluBMinusH m) := of_micro _ rfl (field_encodeMicro_alu _)
theorem aluBMinus1 (m : Micro) : Statement (.aluBMinus1 m) := of_micro _ rfl (field_encodeMicro_alu _)
theorem aluNegH (m : Micro) : Statement (.aluNegH m) := of_micro _ rfl (field_encodeMicro_alu _)
theorem aluHAndB (m : Micro) : Statement (.aluHAndB m) := of_micro _ rfl (field_encodeMicro_alu _)
theorem aluHOrB (m : Micro) : Statement (.aluHOrB m) := of_micro _ rfl (field_encodeMicro_alu _)
theorem aluZero (m : Micro) : Statement (.aluZero m) := of_micro _ rfl (field_encodeMicro_alu _)
theorem aluOne (m : Micro) : Statement (.aluOne m) := of_micro _ rfl (field_encodeMicro_alu _)
theorem aluMinusOne (m : Micro) : Statement (.aluMinusOne m) := of_micro _ rfl (field_encodeMicro_alu _)
theorem aluUndefined0x00 (m : Micro) : Statement (.aluUndefined0x00 m) := of_micro _ rfl (field_encodeMicro_alu _)
theorem aluUndefined0x01 (m : Micro) : Statement (.aluUndefined0x01 m) := of_micro _ rfl (field_encodeMicro_alu _)
theorem aluUndefined0x02 (m : Micro) : Statement (.aluUndefined0x02 m) := of_micro _ rfl (field_encodeMicro_alu _)
theorem aluUndefined0x03 (m : Micro) : Statement (.aluUndefined0x03 m) := of_micro _ rfl (field_encodeMicro_alu _)
theorem aluUndefined0x04 (m : Micro) : Statement (.aluUndefined0x04 m) := of_micro _ rfl (field_encodeMicro_alu _)
theorem aluUndefined0x05 (m : Micro) : Statement (.aluUndefined0x05 m) := of_micro _ rfl (field_encodeMicro_alu _)
theorem aluUndefined0x06 (m : Micro) : Statement (.aluUndefined0x06 m) := of_micro _ rfl (field_encodeMicro_alu _)
theorem aluUndefined0x07 (m : Micro) : Statement (.aluUndefined0x07 m) := of_micro _ rfl (field_encodeMicro_alu _)
theorem aluUndefined0x08 (m : Micro) : Statement (.aluUndefined0x08 m) := of_micro _ rfl (field_encodeMicro_alu _)
theorem aluUndefined0x09 (m : Micro) : Statement (.aluUndefined0x09 m) := of_micro _ rfl (field_encodeMicro_alu _)
theorem aluUndefined0x0A (m : Micro) : Statement (.aluUndefined0x0A m) := of_micro _ rfl (field_encodeMicro_alu _)
theorem aluUndefined0x0B (m : Micro) : Statement (.aluUndefined0x0B m) := of_micro _ rfl (field_encodeMicro_alu _)
theorem aluUndefined0x0D (m : Micro) : Statement (.aluUndefined0x0D m) := of_micro _ rfl (field_encodeMicro_alu _)
theorem aluUndefined0x0E (m : Micro) : Statement (.aluUndefined0x0E m) := of_micro _ rfl (field_encodeMicro_alu _)
theorem aluUndefined0x0F (m : Micro) : Statement (.aluUndefined0x0F m) := of_micro _ rfl (field_encodeMicro_alu _)
theorem aluUndefined0x13 (m : Micro) : Statement (.aluUndefined0x13 m) := of_micro _ rfl (field_encodeMicro_alu _)
theorem aluUndefined0x15 (m : Micro) : Statement (.aluUndefined0x15 m) := of_micro _ rfl (field_encodeMicro_alu _)
theorem aluUndefined0x16 (m : Micro) : Statement (.aluUndefined0x16 m) := of_micro _ rfl (field_encodeMicro_alu _)
theorem aluUndefined0x17 (m : Micro) : Statement (.aluUndefined0x17 m) := of_micro _ rfl (field_encodeMicro_alu _)
theorem aluUndefined0x19 (m : Micro) : Statement (.aluUndefined0x19 m) := of_micro _ rfl (field_encodeMicro_alu _)
theorem aluUndefined0x1B (m : Micro) : Statement (.aluUndefined0x1B m) := of_micro _ rfl (field_encodeMicro_alu _)
theorem aluUndefined0x1D (m : Micro) : Statement (.aluUndefined0x1D m) := of_micro _ rfl (field_encodeMicro_alu _)
theorem aluUndefined0x1E (m : Micro) : Statement (.aluUndefined0x1E m) := of_micro _ rfl (field_encodeMicro_alu _)
theorem aluUndefined0x1F (m : Micro) : Statement (.aluUndefined0x1F m) := of_micro _ rfl (field_encodeMicro_alu _)
theorem aluUndefined0x20 (m : Micro) : Statement (.aluUndefined0x20 m) := of_micro _ rfl (field_encodeMicro_alu _)
theorem aluUndefined0x21 (m : Micro) : Statement (.aluUndefined0x21 m) := of_micro _ rfl (field_encodeMicro_alu _)
theorem aluUndefined0x22 (m : Micro) : Statement (.aluUndefined0x22 m) := of_micro _ rfl (field_encodeMicro_alu _)
theorem aluUndefined0x23 (m : Micro) : Statement (.aluUndefined0x23 m) := of_micro _ rfl (field_encodeMicro_alu _)
theorem aluUndefined0x24 (m : Micro) : Statement (.aluUndefined0x24 m) := of_micro _ rfl (field_encodeMicro_alu _)
theorem aluUndefined0x25 (m : Micro) : Statement (.aluUndefined0x25 m) := of_micro _ rfl (field_encodeMicro_alu _)
theorem aluUndefined0x26 (m : Micro) : Statement (.aluUndefined0x26 m) := of_micro _ rfl (field_encodeMicro_alu _)
theorem aluUndefined0x27 (m : Micro) : Statement (.aluUndefined0x27 m) := of_micro _ rfl (field_encodeMicro_alu _)
theorem aluUndefined0x28 (m : Micro) : Statement (.aluUndefined0x28 m) := of_micro _ rfl (field_encodeMicro_alu _)
theorem aluUndefined0x29 (m : Micro) : Statement (.aluUndefined0x29 m) := of_micro _ rfl (field_encodeMicro_alu _)
theorem aluUndefined0x2A (m : Micro) : Statement (.aluUndefined0x2A m) := of_micro _ rfl (field_encodeMicro_alu _)
theorem aluUndefined0x2B (m : Micro) : Statement (.aluUndefined0x2B m) := of_micro _ rfl (field_encodeMicro_alu _)
theorem aluUndefined0x2D (m : Micro) : Statement (.aluUndefined0x2D m) := of_micro _ rfl (field_encodeMicro_alu _)
theorem aluUndefined0x2E (m : Micro) : Statement (.aluUndefined0x2E m) := of_micro _ rfl (field_encodeMicro_alu _)
theorem aluUndefined0x2F (m : Micro) : Statement (.aluUndefined0x2F m) := of_micro _ rfl (field_encodeMicro_alu _)
theorem aluUndefined0x30 (m : Micro) : Statement (.aluUndefined0x30 m) := of_micro _ rfl (field_encodeMicro_alu _)
theorem aluUndefined0x31 (m : Micro) : Statement (.aluUndefined0x31 m) := of_micro _ rfl (field_encodeMicro_alu _)
theorem aluUndefined0x32 (m : Micro) : Statement (.aluUndefined0x32 m) := of_micro _ rfl (field_encodeMicro_alu _)
theorem aluUndefined0x33 (m : Micro) : Statement (.aluUndefined0x33 m) := of_micro _ rfl (field_encodeMicro_alu _)
theorem aluUndefined0x34 (m : Micro) : Statement (.aluUndefined0x34 m) := of_micro _ rfl (field_encodeMicro_alu _)
theorem aluUndefined0x36 (m : Micro) : Statement (.aluUndefined0x36 m) := of_micro _ rfl (field_encodeMicro_alu _)
theorem aluUndefined0x38 (m : Micro) : Statement (.aluUndefined0x38 m) := of_micro _ rfl (field_encodeMicro_alu _)
theorem aluUndefined0x3A (m : Micro) : Statement (.aluUndefined0x3A m) := of_micro _ rfl (field_encodeMicro_alu _)
theorem aluUndefined0x3E (m : Micro) : Statement (.aluUndefined0x3E m) := of_micro _ rfl (field_encodeMicro_alu _)
theorem shNone (m : Micro) : Statement (.shNone m) := of_micro _ rfl (field_encodeMicro_shift _)
theorem shSra1 (m : Micro) : Statement (.shSra1 m) := of_micro _ rfl (field_encodeMicro_shift _)
theorem shSll8 (m : Micro) : Statement (.shSll8 m) := of_micro _ rfl (field_encodeMicro_shift _)
theorem shSra1Sll8 (m : Micro) : Statement (.shSra1Sll8 m) := of_micro _ rfl (field_encodeMicro_shift _)
theorem nextGoto (m : Micro) : Statement (.nextGoto m) := of_micro _ rfl (field_encodeMicro_next _)
theorem nextJamz (m : Micro) : Statement (.nextJamz m) := of_micro _ rfl (field_encodeMicro_next _)
theorem nextJamn (m : Micro) : Statement (.nextJamn m) := of_micro _ rfl (field_encodeMicro_next _)
theorem nextJmpc (m : Micro) : Statement (.nextJmpc m) := of_micro _ rfl (field_encodeMicro_next _)
theorem nextJamzJamn (m : Micro) : Statement (.nextJamzJamn m) := of_micro _ rfl (field_encodeMicro_next _)
theorem nextJamzJmpc (m : Micro) : Statement (.nextJamzJmpc m) := of_micro _ rfl (field_encodeMicro_next _)
theorem nextJamnJmpc (m : Micro) : Statement (.nextJamnJmpc m) := of_micro _ rfl (field_encodeMicro_next _)
theorem nextJamzJamnJmpc (m : Micro) : Statement (.nextJamzJamnJmpc m) := of_micro _ rfl (field_encodeMicro_next _)
theorem unusedBits3936 (m : Micro) : Statement (.unusedBits3936 m) := of_micro _ rfl (field_encodeMicro_unused _)

end Sys2Proof.Laws.TableMatch
end

