-- ==== Sys2Proof/Laws/Decode.lean ====
section
/-! SUPPORT. What the decoder reads: the fields of an encoded word are read back, and the row a word is filed under means the
word's own fields and nothing else. -/

namespace Sys2Proof

/-- Decoding the fields of an encoded horizontal word gives them back. -/
theorem controlOf_encodeMicro (m : Micro) (h : m.alu.wellFormed = true) : controlOf (encodeMicro m) = .micro m := by
  have hb : field (encodeMicro m) 0 4 = m.bsrc.code := field_encodeMicro_b m
  have hlt := m.bsrc.code_lt
  unfold controlOf
  rw [hb, if_neg (by omega), bSourceOf_code]
  have bit : ∀ p (b : Bool), field (encodeMicro m) p 1 = b.toNat → getBit (encodeMicro m) p = b := by
    intro p b hp
    rw [getBit_eq_field, hp]; cases b <;> rfl
  have hd := fun k hk => Laws.TableMatch.field_encodeMicro_dest m k hk
  have dbit : ∀ r : Reg, getBit (encodeMicro m) (7 + r.cBit) = m.dest.has r := by
    intro r
    apply bit
    rw [hd _ (by cases r <;> decide)]
    obtain ⟨a1, a2, a3, a4, a5, a6, a7, a8, a9⟩ := m.dest
    have h1 := a1.toNat_lt
    have h2 := a2.toNat_lt
    have h3 := a3.toNat_lt
    have h4 := a4.toNat_lt
    have h5 := a5.toNat_lt
    have h6 := a6.toNat_lt
    have h7 := a7.toNat_lt
    have h8 := a8.toNat_lt
    have h9 := a9.toNat_lt
    cases r <;> simp only [Dest.code, Reg.cBit, Dest.has] <;> omega
  have t1 := m.sra1.toNat_lt
  have t2 := m.sll8.toNat_lt
  have t3 := m.jamz.toNat_lt
  have t4 := m.jamn.toNat_lt
  have t5 := m.jmpc.toNat_lt
  have top := field_encodeMicro_top m
  have e1 : getBit (encodeMicro m) 22 = m.sra1 := bit _ _ (by rw [top 0 1]; omega)
  have e2 : getBit (encodeMicro m) 23 = m.sll8 := bit _ _ (by rw [top 1 1]; omega)
  have e3 : getBit (encodeMicro m) 24 = m.jamz := bit _ _ (by rw [top 2 1]; omega)
  have e4 : getBit (encodeMicro m) 25 = m.jamn := bit _ _ (by rw [top 3 1]; omega)
  have e5 : getBit (encodeMicro m) 26 = m.jmpc := bit _ _ (by rw [top 4 1]; omega)
  have e6 : getBit (encodeMicro m) 4 = m.fetch := bit _ _ (field_encodeMicro_fetch m)
  have e7 : getBit (encodeMicro m) 5 = m.rd := bit _ _ (field_encodeMicro_rd m)
  have e8 : getBit (encodeMicro m) 6 = m.wr := bit _ _ (field_encodeMicro_wr m)
  simp only [microOf, Control.micro.injEq, e1, e2, e3, e4, e5, e6, e7, e8, field_encodeMicro_alu, field_encodeMicro_addr,
    aluFnOf_code h]
  have hdest : (Dest.ofFn fun r => getBit (encodeMicro m) (7 + r.cBit)) = m.dest := by
    simp only [dbit]; rfl
  rw [hdest]
  cases m
  simp


theorem bRow_control (m : Micro) : (bRow m).control = .micro m := by
  obtain ⟨b⟩ := m
  cases b <;> rfl

theorem memRow_control (m : Micro) (h : (m.rd || m.wr || m.fetch) = true) : (memRow m).control = .micro m := by
  obtain ⟨b, fetch, rd, wr⟩ := m
  cases fetch <;> cases rd <;> cases wr <;> first | rfl | cases h

theorem Dest.add_of_has {d : Dest} {r : Reg} (h : d.has r = true) : d.add r = d := by
  obtain ⟨⟩ := d
  cases r <;> simp_all [Dest.has, Dest.add]

theorem Dest.eq_empty_of_has {d : Dest} (h : ∀ r, d.has r = false) : d = Dest.empty := by
  obtain ⟨⟩ := d
  exact Dest.mk.injEq .. |>.mpr ⟨h .mar, h .mdr, h .pc, h .sp, h .lv, h .cpp, h .tos, h .opc, h .h⟩

theorem destRow_control (m : Micro) (r : Reg) (h : m.dest.has r = true) : (destRow m r).control = .micro m := by
  have key : (destRow m r).control = .micro (m.setDest r) := by cases r <;> rfl
  rw [key, Micro.setDest, Dest.add_of_has h]

theorem clearDest_of_empty (m : Micro) (h : m.dest = Dest.empty) : m.clearDest = m := by
  rw [Micro.clearDest, ← h]

theorem cRow_control (m : Micro) : (cRow m).control = .micro m := by
  unfold cRow
  split
  · rename_i r hr
    exact destRow_control m r (List.find?_some hr)
  · rename_i hn
    have he : m.dest = Dest.empty := Dest.eq_empty_of_has fun r => by
      have := List.find?_eq_none.mp hn r (by cases r <;> decide)
      simpa using this
    show Control.micro m.clearDest = _
    rw [clearDest_of_empty m he]

theorem setAlu_self (m : Micro) (f : AluFn) (h : m.alu = f) : m.setAlu f = m := by rw [Micro.setAlu, ← h]

/-- Each of the 48 undefined codes has its row. -/
theorem undefinedRow_control (m : Micro) (c : BitVec 6) (h : (AluFn.undefined c).wellFormed = true) :
    (undefinedRow m c.toNat).control = .micro (m.setAlu (.undefined c)) := by
  have key : ∀ c : BitVec 6, (AluFn.undefined c).wellFormed = true → ∀ m : Micro,
      (undefinedRow m c.toNat).control = .micro (m.setAlu (.undefined c)) := by
    intro c
    obtain ⟨⟨n, hn⟩⟩ := c
    interval_cases n <;> intro h m <;> first | rfl | exact absurd h (by decide +revert)
  exact key c h m

theorem aluRow_control (m : Micro) (h : m.alu.wellFormed = true) : (aluRow m).control = .micro m := by
  have key : (aluRow m).control = .micro (m.setAlu m.alu) := by
    unfold aluRow
    split <;> rename_i ha <;> rw [ha] at h ⊢
    iterate 16 rfl
    exact undefinedRow_control m _ h
  rw [key, setAlu_self m _ rfl]

theorem shiftRow_control (m : Micro) : (shiftRow m).control = .micro m := by
  obtain ⟨_, _, _, _, _, _, sra1, sll8⟩ := m
  cases sra1 <;> cases sll8 <;> rfl

theorem nextRow_control (m : Micro) : (nextRow m).control = .micro m := by
  obtain ⟨_, _, _, _, _, _, _, _, jamz, jamn, jmpc⟩ := m
  cases jamz <;> cases jamn <;> cases jmpc <;> rfl

theorem firstAwayRow_control (m : Micro) (h : m.alu.wellFormed = true) : (firstAwayRow m).control = .micro m := by
  unfold firstAwayRow
  split
  · exact memRow_control m ‹_›
  split
  · exact cRow_control m
  split
  · exact aluRow_control m h
  split
  · exact shiftRow_control m
  split
  · exact nextRow_control m
  split
  · exact bRow_control m
  split
  · rename_i hn _ _
    obtain ⟨_, _, _, _, _, _, _, _, jamz, jamn, jmpc⟩ := m
    cases jamz <;> cases jamn <;> cases jmpc <;> first | rfl | exact absurd rfl hn
  · rfl

theorem microRow_control (m : Micro) (h : m.alu.wellFormed = true) : (microRow m).control = .micro m := by
  unfold microRow
  split
  · exact bRow_control m
  · exact cRow_control m
  · exact aluRow_control m h
  · exact shiftRow_control m
  · exact nextRow_control m
  · exact firstAwayRow_control m h

theorem microOf_alu_wellFormed (b : BSource) (w : ControlBits) : (microOf b w).alu.wellFormed = true :=
  (aluFnOf_spec (Nat.mod_lt _ (by decide))).2

/-- What a word's B field says it is (R90). -/
theorem controlOf_cases (w : ControlBits) :
    (field w 0 4 = 15 ∧ controlOf w = .halt)
    ∨ (9 ≤ field w 0 4 ∧ field w 0 4 ≤ 14 ∧ controlOf w = .reserved (BitVec.ofNat 4 (field w 0 4)))
    ∨ (field w 0 4 < 9 ∧ ∃ b, b.code = field w 0 4 ∧ controlOf w = .micro (microOf b w)) := by
  have hlt : field w 0 4 < 16 := Nat.mod_lt _ (by decide)
  by_cases h15 : field w 0 4 = 15
  · exact .inl ⟨h15, by simp [controlOf, h15]⟩
  · by_cases h9 : field w 0 4 < 9
    · obtain ⟨b, hb⟩ : ∃ b, bSourceOf (field w 0 4) = some b := by
        generalize field w 0 4 = n at h9
        interval_cases n <;> exact ⟨_, rfl⟩
      exact .inr (.inr ⟨h9, b, code_of_bSourceOf hb, by simp [controlOf, h15, hb]⟩)
    · refine .inr (.inl ⟨by omega, by omega, ?_⟩)
      have hn : bSourceOf (field w 0 4) = none := by
        have h1 : 9 ≤ field w 0 4 := by omega
        have h2 : field w 0 4 < 15 := by omega
        generalize field w 0 4 = n at h1 h2
        interval_cases n <;> rfl
      simp [controlOf, h15, hn]

/-- The decoder's row is a name for the word's fields: it means exactly them. -/
theorem decode_control (w : ControlBits) : (decode w).control = controlOf w := by
  rcases controlOf_cases w with ⟨_, h⟩ | ⟨h9, h14, h⟩ | ⟨_, b, _, h⟩
  · rw [decode, h]; rfl
  · rw [decode, h]
    generalize field w 0 4 = n at h9 h14
    interval_cases n <;> rfl
  · rw [decode, h]
    exact microRow_control _ (microOf_alu_wellFormed b w)

end Sys2Proof
end

