-- ==== Sys2Proof/Laws/Exec.lean ====
section
/-! SUPPORT. What `exec` and `step` can do, said once: an instruction does what its word is (a cycle, a halt or a fault), and
a step is that of the decoded word or of a stopped machine. -/

namespace Sys2Proof.Machine

/-- What a decoded word does (R90, R122, R246, R150). -/
def runControl (c : Control) (s : State) : Host.Outcome State Fault Refusal :=
  match c with
  | .halt => .next { s with status := .halted }
  | .reserved b => .fault (.invalidBSelect s.mpc b)
  | .micro m => .next (cycleOf m s)

/-- Every instruction does what its word is: its row names it and adds nothing. -/
theorem exec_eq_runControl (i : Instr) (s : State) : exec i s = runControl i.control s := by cases i <;> rfl

theorem exec_of_micro {i : Instr} {m : Micro} (h : i.control = .micro m) (s : State) : exec i s = .next (cycleOf m s) := by
  rw [exec_eq_runControl, h]; rfl

/-- No instruction is refused. -/
theorem exec_ne_refused (i : Instr) (s : State) (r : Refusal) : exec i s ≠ .refused r := by
  rw [exec_eq_runControl]
  unfold runControl
  split <;> simp

theorem step_running {s : State} (h : s.status = .running) : step s = exec (decode s.currentWord) s := by
  simp [step, controllerStep, h]

theorem step_halted {s : State} (h : s.status = .halted) : step s = .next s := by simp [step, controllerStep, h]

theorem step_faulted {s : State} {f : Fault} (h : s.status = .faulted f) : step s = .fault f := by
  simp [step, controllerStep, h]

/-- A step that answers a next state did one of three things: stood still in a halted machine, halted a running one, or
ran one cycle of a running one. -/
theorem step_next_cases {s t : State} (h : step s = .next t) :
    (s.status = .halted ∧ t = s)
    ∨ (s.status = .running ∧ (decode s.currentWord).control = .halt ∧ t = { s with status := .halted })
    ∨ (s.status = .running ∧ ∃ m, (decode s.currentWord).control = .micro m ∧ t = cycleOf m s) := by
  cases hs : s.status with
  | halted =>
    rw [step_halted hs] at h
    cases h
    exact .inl ⟨rfl, rfl⟩
  | faulted f => rw [step_faulted hs] at h; cases h
  | running =>
    rw [step_running hs, exec_eq_runControl] at h
    cases hc : (decode s.currentWord).control with
    | halt => rw [hc] at h; cases h; exact .inr (.inl ⟨rfl, rfl, rfl⟩)
    | reserved b => rw [hc] at h; cases h
    | micro m => rw [hc] at h; cases h; exact .inr (.inr ⟨rfl, m, rfl, rfl⟩)

end Sys2Proof.Machine
end

