-- ==== Sys2Proof/Laws/Image.lean ====
section
/-! SUPPORT. Reading an image's text: one line at a time, the characters of a number, and what loading the words leaves
(47_placement_image.md R317 to R319). -/

namespace Sys2Proof.Machine

/-- The first line of a text is what stands before its first newline. -/
theorem linesFrom_line (xs acc rest : Text) (h : '\n' ∉ xs) :
    linesFrom acc (xs ++ '\n' :: rest) = (acc.reverse ++ xs) :: linesFrom [] rest := by
  induction xs generalizing acc with
  | nil => simp [linesFrom]
  | cons c cs ih =>
    simp only [List.mem_cons, not_or] at h
    rw [List.cons_append, linesFrom, if_neg (Ne.symm h.1), ih _ h.2]
    simp

theorem hexDigit_mem (n : Nat) :
    hexDigit n ∈ ['0', '1', '2', '3', '4', '5', '6', '7', '8', '9', 'a', 'b', 'c', 'd', 'e', 'f'] := by
  unfold hexDigit
  by_cases h : n < 16
  · interval_cases n <;> decide
  · rw [List.getD_eq_default]
    · decide
    · simp
      omega

/-- A number's text holds digits only. -/
theorem hexText_mem {k n : Nat} {c : Char} (h : c ∈ hexText k n) :
    c ∈ ['0', '1', '2', '3', '4', '5', '6', '7', '8', '9', 'a', 'b', 'c', 'd', 'e', 'f'] := by
  induction k generalizing n with
  | zero => cases h
  | succ k ih =>
    simp only [hexText, List.mem_cons] at h
    rcases h with rfl | h
    · exact hexDigit_mem _
    · exact ih h

/-- Loading words into a canonical store of the control store's slots leaves one. -/
theorem loadWords_wf (order : HexOrder) {n slot : Nat} {ls : List Text} {cs cs' : ControlStore}
    (h : loadWords order slot n ls cs = .ok cs') (hs : slot + n ≤ 512) (hw : Store.wf cs = true)
    (hb : Store.below 512 cs = true) : Store.wf cs' = true ∧ Store.below 512 cs' = true := by
  induction n generalizing slot ls cs with
  | zero =>
    simp only [loadWords, Except.ok.injEq] at h
    subst h
    exact ⟨hw, hb⟩
  | succ n ih =>
    cases ls with
    | nil => cases h
    | cons l ls =>
      simp only [loadWords] at h
      split at h
      · cases h
      · exact ih h (by omega) (Store.write_wf _ _ hw) (Store.write_below _ hb (by omega))

end Sys2Proof.Machine
end

