-- ==== Sys2Proof/Laws/Placement.lean ====
section
/-! SUPPORT. What one move of a placement does (47_placement_image.md R311 to R313): a line put in a slot, a free slot, and
the search for the least index. -/

namespace Sys2Proof.Machine

theorem Placement.slotOf_place_self (pl : Placement) (i a : Nat) : (pl.place i a).slotOf i = some a := by
  simp [Placement.slotOf, Placement.place]

theorem Placement.slotOf_place_ne (pl : Placement) {i j : Nat} (a : Nat) (h : i ≠ j) :
    (pl.place i a).slotOf j = pl.slotOf j := by
  simp [Placement.slotOf, Placement.place, h]

@[simp] theorem Placement.slotOf_warn (pl : Placement) (i : Nat) (v : Violation) (j : Nat) :
    (pl.warn i v).slotOf j = pl.slotOf j := rfl

/-- A free slot is the slot of no line. -/
theorem Placement.slotOf_ne_of_free {pl : Placement} {a : Nat} (h : pl.free a = true) (j : Nat) : pl.slotOf j ≠ some a := by
  intro hj
  simp only [Placement.slotOf, Option.map_eq_some_iff] at hj
  obtain ⟨c, hc, rfl⟩ := hj
  have := List.all_eq_true.mp h c (List.mem_of_find?_eq_some hc)
  simp at this

/-- The search finds the least index that passes. -/
theorem leastFrom_some {ok : Nat → Bool} {lo n a : Nat} (h : leastFrom ok lo n = some a) :
    lo ≤ a ∧ a < lo + n ∧ ok a = true ∧ ∀ b, lo ≤ b → b < a → ok b = false := by
  induction n generalizing lo with
  | zero => cases h
  | succ n ih =>
    unfold leastFrom at h
    split at h
    · cases h
      exact ⟨Nat.le_refl _, by omega, ‹_›, fun b h1 h2 => by omega⟩
    · obtain ⟨h1, h2, h3, h4⟩ := ih h
      refine ⟨by omega, by omega, h3, fun b hb1 hb2 => ?_⟩
      by_cases hb : b = lo
      · subst hb; simp_all
      · exact h4 b (by omega) hb2

/-- A search without a result passed over every index. -/
theorem leastFrom_none {ok : Nat → Bool} {lo n : Nat} (h : leastFrom ok lo n = none) :
    ∀ b, lo ≤ b → b < lo + n → ok b = false := by
  induction n generalizing lo with
  | zero => intro b h1 h2; omega
  | succ n ih =>
    unfold leastFrom at h
    split at h
    · cases h
    · intro b h1 h2
      by_cases hb : b = lo
      · subst hb; simp_all
      · exact ih h b (by omega) (by omega)

end Sys2Proof.Machine
end

