-- ==== Sys2Proof/Tests/Slice0.lean ====
section
/-! SUPPORT. Tests. Expected results are those of spec/95_test_vectors.md (the vector's name stands at each test) or words
written from the field table of 30_encoding.md R81 to R88; no expected result comes from the model. The theorems named
`witness_O<n>_…` show, for the obligation O<n>, a concrete state and operands that meet its hypotheses. -/

namespace Sys2Proof.Tests

open Sys2Proof Sys2Proof.Machine Sys2Proof.Claims

-- ## Helpers

/-- The cleared word's fields. -/
abbrev z : Micro := Micro.cleared

/-- A small machine: 64 bytes of memory, all 0, registers 0 (the spec's vectors use MEM_BYTES = 64). -/
def base : State := { State.reset with params := { Params.default with memWords := 16 } }

/-- One step of the word, placed at MPC. -/
def run1 (w : ControlBits) (s : State) : State := runStep (s.placeWord w)

/-- The state an outcome gives, if it gives one. -/
def nextOf : Host.Outcome State Fault Refusal → Option State
  | .next t => some t
  | .fault _ => none
  | .refused _ => none

/-- The fault an outcome is, if it is one. -/
def faultOf : Host.Outcome State Fault Refusal → Option Fault
  | .next _ => none
  | .fault f => some f
  | .refused _ => none

/-- The image or word of a result, if there is one. -/
def okOf {ε α : Type} : Except ε α → Option α
  | .ok a => some a
  | .error _ => none

/-- The error of a result, if it is one. -/
def errorOf {ε α : Type} : Except ε α → Option ε
  | .ok _ => none
  | .error e => some e

-- ## WellFormed: an ill-formed instruction for each check, refused; and a well-formed one

/-- A defined ALU code called undefined: the ALU check refuses it. -/
theorem test_wf_alu_check : (Instr.aluB (z.setAlu .b)).aluWellFormed = true
    ∧ (Instr.cMar (z.setAlu (.undefined 0x14#6))).aluWellFormed = false
    ∧ (Instr.cMar (z.setAlu (.undefined 0x14#6))).wellFormed = false := by decide

/-- An operand that disagrees with its row's own field: the row check refuses it. -/
theorem test_wf_operand_disagrees : (Instr.bPc z).rowWellFormed = false ∧ (Instr.bPc z).wellFormed = false := by decide

/-- A word filed under another of its rows than the decoder's: the row check refuses it. -/
theorem test_wf_other_row : (Instr.nextGoto (z.setB .pc)).wellFormed = false
    ∧ (Instr.bPc (z.setB .pc)).wellFormed = true := by decide

-- ## Decoding: every constructor's word, from the fields of R81 (a row's own bits, or for a row whose bits are all 0 a word
-- in which every other of B, C, ALU, shift and next address is set)

/-- B = 1 to 8 (R83); B = 0 is in test_decode_cleared_rows. -/
theorem test_decode_b_sources : decode 0x0000000001#40 = .bPc (z.setB .pc)
    ∧ decode 0x0000000002#40 = .bMbr (z.setB .mbr)
    ∧ decode 0x0000000003#40 = .bMbru (z.setB .mbru)
    ∧ decode 0x0000000004#40 = .bSp (z.setB .sp)
    ∧ decode 0x0000000005#40 = .bLv (z.setB .lv)
    ∧ decode 0x0000000006#40 = .bCpp (z.setB .cpp)
    ∧ decode 0x0000000007#40 = .bTos (z.setB .tos)
    ∧ decode 0x0000000008#40 = .bOpc (z.setB .opc) := by
  decide

/-- B = 9 to 14 and 15 (R83), whatever the other bits hold. -/
theorem test_decode_reserved_and_halt : decode 0x0000000009#40 = .bReserved9 ∧ decode 0x0008148009#40 = .bReserved9
    ∧ decode 0x000000000A#40 = .bReserved10 ∧ decode 0x000814800A#40 = .bReserved10
    ∧ decode 0x000000000B#40 = .bReserved11 ∧ decode 0x000814800B#40 = .bReserved11
    ∧ decode 0x000000000C#40 = .bReserved12 ∧ decode 0x000814800C#40 = .bReserved12
    ∧ decode 0x000000000D#40 = .bReserved13 ∧ decode 0x000814800D#40 = .bReserved13
    ∧ decode 0x000000000E#40 = .bReserved14 ∧ decode 0x000814800E#40 = .bReserved14
    ∧ decode 0x000000000F#40 = .halt ∧ decode 0xFFFFFFFFFF#40 = .halt := by
  decide

/-- Bits 4, 5 and 6 (R84). -/
theorem test_decode_memory : decode 0x0000000010#40 = .memFetch (z.setFetch)
    ∧ decode 0x0000000020#40 = .memRd (z.setRd)
    ∧ decode 0x0000000040#40 = .memWr (z.setWr)
    ∧ decode 0x0000000030#40 = .memRdFetch (z.setRd.setFetch)
    ∧ decode 0x0000000060#40 = .memRdWr (z.setRd.setWr) := by
  decide

/-- Bits 7 to 15 (R85). -/
theorem test_decode_destinations : decode 0x0000000080#40 = .cMar (z.setDest .mar)
    ∧ decode 0x0000000100#40 = .cMdr (z.setDest .mdr)
    ∧ decode 0x0000000200#40 = .cPc (z.setDest .pc)
    ∧ decode 0x0000000400#40 = .cSp (z.setDest .sp)
    ∧ decode 0x0000000800#40 = .cLv (z.setDest .lv)
    ∧ decode 0x0000001000#40 = .cCpp (z.setDest .cpp)
    ∧ decode 0x0000002000#40 = .cTos (z.setDest .tos)
    ∧ decode 0x0000004000#40 = .cOpc (z.setDest .opc)
    ∧ decode 0x0000008000#40 = .cH (z.setDest .h) := by
  decide

/-- The sixteen codes of R86. -/
theorem test_decode_alu : decode 0x0000180000#40 = .aluH (z.setAlu .h)
    ∧ decode 0x0000140000#40 = .aluB (z.setAlu .b)
    ∧ decode 0x00001A0000#40 = .aluNotH (z.setAlu .notH)
    ∧ decode 0x00002C0000#40 = .aluNotB (z.setAlu .notB)
    ∧ decode 0x00003C0000#40 = .aluHPlusB (z.setAlu .hPlusB)
    ∧ decode 0x00003D0000#40 = .aluHPlusBPlus1 (z.setAlu .hPlusBPlus1)
    ∧ decode 0x0000390000#40 = .aluHPlus1 (z.setAlu .hPlus1)
    ∧ decode 0x0000350000#40 = .aluBPlus1 (z.setAlu .bPlus1)
    ∧ decode 0x00003F0000#40 = .aluBMinusH (z.setAlu .bMinusH)
    ∧ decode 0x0000370000#40 = .aluBMinus1 (z.setAlu .bMinus1)
    ∧ decode 0x00003B0000#40 = .aluNegH (z.setAlu .negH)
    ∧ decode 0x00000C0000#40 = .aluHAndB (z.setAlu .hAndB)
    ∧ decode 0x00001C0000#40 = .aluHOrB (z.setAlu .hOrB)
    ∧ decode 0x0000100000#40 = .aluZero (z.setAlu .zero)
    ∧ decode 0x0000110000#40 = .aluOne (z.setAlu .one)
    ∧ decode 0x0000120000#40 = .aluMinusOne (z.setAlu .minusOne) := by
  decide

/-- Codes outside R86. -/
theorem test_decode_undefined_1 : decode 0x0000010000#40 = .aluUndefined0x01 (z.setAlu (.undefined 0x01#6))
    ∧ decode 0x0000020000#40 = .aluUndefined0x02 (z.setAlu (.undefined 0x02#6))
    ∧ decode 0x0000030000#40 = .aluUndefined0x03 (z.setAlu (.undefined 0x03#6))
    ∧ decode 0x0000040000#40 = .aluUndefined0x04 (z.setAlu (.undefined 0x04#6))
    ∧ decode 0x0000050000#40 = .aluUndefined0x05 (z.setAlu (.undefined 0x05#6))
    ∧ decode 0x0000060000#40 = .aluUndefined0x06 (z.setAlu (.undefined 0x06#6))
    ∧ decode 0x0000070000#40 = .aluUndefined0x07 (z.setAlu (.undefined 0x07#6))
    ∧ decode 0x0000080000#40 = .aluUndefined0x08 (z.setAlu (.undefined 0x08#6))
    ∧ decode 0x0000090000#40 = .aluUndefined0x09 (z.setAlu (.undefined 0x09#6))
    ∧ decode 0x00000A0000#40 = .aluUndefined0x0A (z.setAlu (.undefined 0x0A#6))
    ∧ decode 0x00000B0000#40 = .aluUndefined0x0B (z.setAlu (.undefined 0x0B#6))
    ∧ decode 0x00000D0000#40 = .aluUndefined0x0D (z.setAlu (.undefined 0x0D#6)) := by
  decide

/-- Codes outside R86. -/
theorem test_decode_undefined_2 : decode 0x00000E0000#40 = .aluUndefined0x0E (z.setAlu (.undefined 0x0E#6))
    ∧ decode 0x00000F0000#40 = .aluUndefined0x0F (z.setAlu (.undefined 0x0F#6))
    ∧ decode 0x0000130000#40 = .aluUndefined0x13 (z.setAlu (.undefined 0x13#6))
    ∧ decode 0x0000150000#40 = .aluUndefined0x15 (z.setAlu (.undefined 0x15#6))
    ∧ decode 0x0000160000#40 = .aluUndefined0x16 (z.setAlu (.undefined 0x16#6))
    ∧ decode 0x0000170000#40 = .aluUndefined0x17 (z.setAlu (.undefined 0x17#6))
    ∧ decode 0x0000190000#40 = .aluUndefined0x19 (z.setAlu (.undefined 0x19#6))
    ∧ decode 0x00001B0000#40 = .aluUndefined0x1B (z.setAlu (.undefined 0x1B#6))
    ∧ decode 0x00001D0000#40 = .aluUndefined0x1D (z.setAlu (.undefined 0x1D#6))
    ∧ decode 0x00001E0000#40 = .aluUndefined0x1E (z.setAlu (.undefined 0x1E#6))
    ∧ decode 0x00001F0000#40 = .aluUndefined0x1F (z.setAlu (.undefined 0x1F#6))
    ∧ decode 0x0000200000#40 = .aluUndefined0x20 (z.setAlu (.undefined 0x20#6)) := by
  decide

/-- Codes outside R86. -/
theorem test_decode_undefined_3 : decode 0x0000210000#40 = .aluUndefined0x21 (z.setAlu (.undefined 0x21#6))
    ∧ decode 0x0000220000#40 = .aluUndefined0x22 (z.setAlu (.undefined 0x22#6))
    ∧ decode 0x0000230000#40 = .aluUndefined0x23 (z.setAlu (.undefined 0x23#6))
    ∧ decode 0x0000240000#40 = .aluUndefined0x24 (z.setAlu (.undefined 0x24#6))
    ∧ decode 0x0000250000#40 = .aluUndefined0x25 (z.setAlu (.undefined 0x25#6))
    ∧ decode 0x0000260000#40 = .aluUndefined0x26 (z.setAlu (.undefined 0x26#6))
    ∧ decode 0x0000270000#40 = .aluUndefined0x27 (z.setAlu (.undefined 0x27#6))
    ∧ decode 0x0000280000#40 = .aluUndefined0x28 (z.setAlu (.undefined 0x28#6))
    ∧ decode 0x0000290000#40 = .aluUndefined0x29 (z.setAlu (.undefined 0x29#6))
    ∧ decode 0x00002A0000#40 = .aluUndefined0x2A (z.setAlu (.undefined 0x2A#6))
    ∧ decode 0x00002B0000#40 = .aluUndefined0x2B (z.setAlu (.undefined 0x2B#6))
    ∧ decode 0x00002D0000#40 = .aluUndefined0x2D (z.setAlu (.undefined 0x2D#6)) := by
  decide

/-- Codes outside R86. -/
theorem test_decode_undefined_4 : decode 0x00002E0000#40 = .aluUndefined0x2E (z.setAlu (.undefined 0x2E#6))
    ∧ decode 0x00002F0000#40 = .aluUndefined0x2F (z.setAlu (.undefined 0x2F#6))
    ∧ decode 0x0000300000#40 = .aluUndefined0x30 (z.setAlu (.undefined 0x30#6))
    ∧ decode 0x0000310000#40 = .aluUndefined0x31 (z.setAlu (.undefined 0x31#6))
    ∧ decode 0x0000320000#40 = .aluUndefined0x32 (z.setAlu (.undefined 0x32#6))
    ∧ decode 0x0000330000#40 = .aluUndefined0x33 (z.setAlu (.undefined 0x33#6))
    ∧ decode 0x0000340000#40 = .aluUndefined0x34 (z.setAlu (.undefined 0x34#6))
    ∧ decode 0x0000360000#40 = .aluUndefined0x36 (z.setAlu (.undefined 0x36#6))
    ∧ decode 0x0000380000#40 = .aluUndefined0x38 (z.setAlu (.undefined 0x38#6))
    ∧ decode 0x00003A0000#40 = .aluUndefined0x3A (z.setAlu (.undefined 0x3A#6))
    ∧ decode 0x00003E0000#40 = .aluUndefined0x3E (z.setAlu (.undefined 0x3E#6)) := by
  decide

/-- Bits 22 and 23 (R87). -/
theorem test_decode_shift : decode 0x0000400000#40 = .shSra1 (z.setShift true false)
    ∧ decode 0x0000800000#40 = .shSll8 (z.setShift false true)
    ∧ decode 0x0000C00000#40 = .shSra1Sll8 (z.setShift true true) := by
  decide

/-- Bits 24, 25 and 26 (R88). -/
theorem test_decode_next : decode 0x0001000000#40 = .nextJamz (z.setNext true false false)
    ∧ decode 0x0002000000#40 = .nextJamn (z.setNext false true false)
    ∧ decode 0x0004000000#40 = .nextJmpc (z.setNext false false true)
    ∧ decode 0x0003000000#40 = .nextJamzJamn (z.setNext true true false)
    ∧ decode 0x0005000000#40 = .nextJamzJmpc (z.setNext true false true)
    ∧ decode 0x0006000000#40 = .nextJamnJmpc (z.setNext false true true)
    ∧ decode 0x0007000000#40 = .nextJamzJamnJmpc (z.setNext true true true) := by
  decide

/-- The rows whose own bits are all 0: B = 0 in `H = (MDR) << 8; if (Z)` with ADDR 2; C = 0; ALU 0x00; no shift (L2-12); plain
goto (L2-6); ADDR alone (L2-12); and the all-zero word. -/
theorem test_decode_cleared_rows :
    decode 0x0011948000#40
      = .bMdr { z with dest := { Dest.empty with h := true }, alu := .b, sll8 := true, jamz := true, addr := 2#9 }
    ∧ decode 0x0011940007#40 = .cNone { z with bsrc := .tos, alu := .b, sll8 := true, jamz := true, addr := 2#9 }
    ∧ decode 0x0011808007#40 = .aluUndefined0x00
        { z with bsrc := .tos, dest := { Dest.empty with h := true }, sll8 := true, jamz := true, addr := 2#9 }
    ∧ decode 0x0011372007#40 = .shNone
        { z with bsrc := .tos, dest := { Dest.empty with tos := true }, alu := .bMinus1, jamz := true, addr := 2#9 }
    ∧ decode 0x0090948005#40 = .nextGoto
        { z with bsrc := .lv, dest := { Dest.empty with h := true }, alu := .b, sll8 := true, addr := 0x12#9 }
    ∧ decode 0x0FF8000000#40 = .nextGoto { z with addr := 0x1FF#9 }
    ∧ decode 0x0000000000#40 = .unusedBits3936 z := by
  decide

/-- L1-1: `MAR = PC; goto 0x005;`, the word and its encoding. -/
theorem test_encode_l1_1 :
    encode (.cMar { z with bsrc := .pc, alu := .b, addr := 5#9 }) = 0x0028140081#40 ∧ encode .halt = 0x000000000F#40 := by
  decide

-- ## The B bus (L2-1)

/-- The start of L2-1, with the given instruction byte. -/
def l21 (mbr : Byte) : State :=
  { base with
    mbr := mbr
    regs := { mar := 0#32, mdr := 0xD0#32, pc := 0xC1#32, sp := 0xA4#32, lv := 0xA5#32, cpp := 0xA6#32, tos := 0xA7#32,
              opc := 0xA8#32, h := 0x99#32 } }

/-- L2-1: H after `H = <src>; goto 0x001;`. -/
theorem test_b_sources :
    (run1 0x0008148000#40 (l21 0x00#8)).reg .h = 0xD0#32 ∧ (run1 0x0008148001#40 (l21 0x00#8)).reg .h = 0xC1#32
    ∧ (run1 0x0008148002#40 (l21 0x7F#8)).reg .h = 0x7F#32 ∧ (run1 0x0008148002#40 (l21 0x80#8)).reg .h = 0xFFFFFF80#32
    ∧ (run1 0x0008148002#40 (l21 0xFF#8)).reg .h = 0xFFFFFFFF#32 ∧ (run1 0x0008148003#40 (l21 0x80#8)).reg .h = 0x80#32
    ∧ (run1 0x0008148003#40 (l21 0xFF#8)).reg .h = 0xFF#32 ∧ (run1 0x0008148004#40 (l21 0x00#8)).reg .h = 0xA4#32
    ∧ (run1 0x0008148005#40 (l21 0x00#8)).reg .h = 0xA5#32 ∧ (run1 0x0008148006#40 (l21 0x00#8)).reg .h = 0xA6#32
    ∧ (run1 0x0008148007#40 (l21 0x00#8)).reg .h = 0xA7#32 ∧ (run1 0x0008148008#40 (l21 0x00#8)).reg .h = 0xA8#32 := by
  decide

/-- L2-1: the A input is H. -/
theorem test_a_input_is_h : (run1 0x00083C4007#40 (l21 0x00#8)).reg .opc = 0x140#32 := by decide

/-- L2-1 and L2-9: B = 9 to 14 fault with the address and the B value; H and MPC stay. -/
theorem test_reserved_faults :
    faultOf (step ((l21 0x00#8).placeWord 0x0008148009#40)) = some (.invalidBSelect 0#9 9#4)
    ∧ faultOf (step ((l21 0x00#8).placeWord 0x000814800A#40)) = some (.invalidBSelect 0#9 10#4)
    ∧ faultOf (step ((l21 0x00#8).placeWord 0x000814800B#40)) = some (.invalidBSelect 0#9 11#4)
    ∧ faultOf (step ((l21 0x00#8).placeWord 0x000814800C#40)) = some (.invalidBSelect 0#9 12#4)
    ∧ faultOf (step ((l21 0x00#8).placeWord 0x000814800D#40)) = some (.invalidBSelect 0#9 13#4)
    ∧ faultOf (step ((l21 0x00#8).placeWord 0x000810800E#40)) = some (.invalidBSelect 0#9 14#4)
    ∧ (run1 0x0008148009#40 (l21 0x00#8)).reg .h = 0x99#32 ∧ (run1 0x0008148009#40 (l21 0x00#8)).mpc = 0#9 := by
  decide

/-- L2-9: B = 9 at MPC 0x040. -/
theorem test_fault_record :
    (run1 0x0000000009#40 { base with mpc := 0x40#9 }).status = .faulted (.invalidBSelect 0x40#9 9#4) := by decide

/-- L2-9: B = 12 with a pending read: the read does not land. -/
theorem test_fault_before_landing :
    (run1 0x000000000C#40 { base with pendRead := true, mem := [(0, 0x55#8)] }).reg .mdr = 0#32
    ∧ (run1 0x000000000C#40 { base with pendRead := true, mem := [(0, 0x55#8)] }).pendRead = true := by decide

-- ## Halt (L1-3, L2-9)

/-- L2-9: a halt word, with FETCH set and with every bit set: the run has ended after no cycle, and nothing but the run status
differs. -/
theorem test_halt_words :
    run1 0x000000001F#40 base = haltedState (base.placeWord 0x000000001F#40)
    ∧ run1 0xFFFFFFFFFF#40 base = haltedState (base.placeWord 0xFFFFFFFFFF#40)
    ∧ endsNormallyAfter 0 { base with cs := [(0x1A3, 0x000000000F#40)], mpc := 0x1A3#9 } = true := by decide

/-- L1-3: active is false at the halt line's address and true at another. -/
theorem test_active :
    State.active { base with cs := [(7, 0x000000000F#40)], mpc := 7#9 } = false
    ∧ State.active { base with cs := [(7, 0x000000000F#40)], mpc := 6#9 } = true := by decide

-- ## The C bus (L2-4)

/-- L2-4, row by row. -/
theorem test_c_destinations :
    (run1 0x0008100080#40 { base with regs := { Regs.zero with mar := 5#32 } }).reg .mar = 0#32
    ∧ (run1 0x0008100100#40 { base with regs := { Regs.zero with mdr := 5#32 } }).reg .mdr = 0#32
    ∧ (run1 0x0008110200#40 base).reg .pc = 1#32
    ∧ (run1 0x0008350404#40 { base with regs := { Regs.zero with sp := 5#32 } }).reg .sp = 6#32
    ∧ (run1 0x0008120800#40 base).reg .lv = 0xFFFFFFFF#32
    ∧ (run1 0x0008141004#40 { base with regs := { Regs.zero with sp := 0x40#32 } }).reg .cpp = 0x40#32
    ∧ (run1 0x0008142000#40 { base with regs := { Regs.zero with mdr := 9#32 } }).reg .tos = 9#32
    ∧ (run1 0x0008184000#40 { base with regs := { Regs.zero with h := 3#32 } }).reg .opc = 3#32
    ∧ (run1 0x0008398000#40 { base with regs := { Regs.zero with h := 0xFFFFFFFF#32 } }).reg .h = 0#32 := by decide

/-- L2-4: all nine at once, and none. -/
theorem test_c_all_and_none :
    (cDests.all fun r => decide ((run1 0x00D012FF80#40 base).reg r = 0xFFFFFFFF#32)) = true
    ∧ (run1 0x00D012FF80#40 base).mpc = 0x1A#9 ∧ (run1 0x0008140000#40 (l21 0x00#8)).regs = (l21 0x00#8).regs := by decide

/-- L2-4: `MAR = SP = SP - 1; rd; goto 0x010;` with SP = 0, and its read out of range one word later. -/
theorem test_c_read_out_of_range :
    (run1 0x00803704A4#40 base).reg .mar = 0xFFFFFFFF#32 ∧ (run1 0x00803704A4#40 base).reg .sp = 0xFFFFFFFF#32
    ∧ (run1 0x0008140000#40 (run1 0x00803704A4#40 base)).oorSeen = true
    ∧ (run1 0x0008140000#40 (run1 0x00803704A4#40 base)).reg .mdr = 0#32 := by decide

-- ## The ALU (L2-5)

/-- OPC after `OPC = <function of H and TOS>; goto 0x000;` with the given ALU code. -/
def aluRun (code : Nat) (h b : Word) : Word :=
  (run1 (BitVec.ofNat 40 (0x4007 + code * 65536)) { base with regs := { Regs.zero with h := h, tos := b } }).reg .opc

/-- The results for the five input pairs of L2-5. -/
def aluRow5 (code : Nat) : List Word :=
  [aluRun code 5#32 3#32, aluRun code 0#32 0#32, aluRun code 0xFFFFFFFF#32 1#32, aluRun code 0x80000000#32 0x7FFFFFFF#32,
   aluRun code 0x7FFFFFFF#32 0x80000000#32]

/-- L2-5, the functions without arithmetic. -/
theorem test_alu_logic :
    aluRow5 0x18 = [5#32, 0#32, 0xFFFFFFFF#32, 0x80000000#32, 0x7FFFFFFF#32]
    ∧ aluRow5 0x14 = [3#32, 0#32, 1#32, 0x7FFFFFFF#32, 0x80000000#32]
    ∧ aluRow5 0x1A = [0xFFFFFFFA#32, 0xFFFFFFFF#32, 0#32, 0x7FFFFFFF#32, 0x80000000#32]
    ∧ aluRow5 0x2C = [0xFFFFFFFC#32, 0xFFFFFFFF#32, 0xFFFFFFFE#32, 0x80000000#32, 0x7FFFFFFF#32]
    ∧ aluRow5 0x0C = [1#32, 0#32, 1#32, 0#32, 0#32]
    ∧ aluRow5 0x1C = [7#32, 0#32, 0xFFFFFFFF#32, 0xFFFFFFFF#32, 0xFFFFFFFF#32]
    ∧ aluRow5 0x10 = [0#32, 0#32, 0#32, 0#32, 0#32] ∧ aluRow5 0x11 = [1#32, 1#32, 1#32, 1#32, 1#32]
    ∧ aluRow5 0x12 = [0xFFFFFFFF#32, 0xFFFFFFFF#32, 0xFFFFFFFF#32, 0xFFFFFFFF#32, 0xFFFFFFFF#32] := by decide

/-- L2-5, the arithmetic functions. -/
theorem test_alu_arithmetic :
    aluRow5 0x3C = [8#32, 0#32, 0#32, 0xFFFFFFFF#32, 0xFFFFFFFF#32]
    ∧ aluRow5 0x3D = [9#32, 1#32, 1#32, 0#32, 0#32]
    ∧ aluRow5 0x39 = [6#32, 1#32, 0#32, 0x80000001#32, 0x80000000#32]
    ∧ aluRow5 0x35 = [4#32, 1#32, 2#32, 0x80000000#32, 0x80000001#32]
    ∧ aluRow5 0x3F = [0xFFFFFFFE#32, 0#32, 2#32, 0xFFFFFFFF#32, 1#32]
    ∧ aluRow5 0x37 = [2#32, 0xFFFFFFFF#32, 0#32, 0x7FFFFFFE#32, 0x7FFFFFFF#32]
    ∧ aluRow5 0x3B = [0xFFFFFFFB#32, 0#32, 1#32, 0x80000000#32, 0x80000001#32] := by decide

/-- L2-5: an undefined code leaves H the drawn value, whatever it is, and the textbook's 0x36 is undefined here. -/
theorem test_undefined_code_draws :
    (run1 0x0000008000#40 base).reg .h = Config.draw32 0 ∧ (run1 0x0000008000#40 base).draws = 1
    ∧ (run1 0x0000368000#40 base).reg .h = Config.draw32 0 := ⟨rfl, rfl, rfl⟩

/-- L2-5: the empty-slot word changes no register and no memory and sets MPC to 0. -/
theorem test_empty_slot_word :
    (run1 0x0000000000#40 (l21 0x00#8)).regs = (l21 0x00#8).regs ∧ (run1 0x0000000000#40 (l21 0x00#8)).mem = []
    ∧ (run1 0x0000000000#40 { base with mpc := 9#9 }).mpc = 0#9 := by decide

-- ## The shifter and the flags (L2-6, L2-7)

/-- H after `H = <shift of TOS>; goto 0x000;` with the given shift bits. -/
def shiftRun (bits : Nat) (f : Word) : Word :=
  (run1 (BitVec.ofNat 40 (0x148007 + bits * 4194304)) { base with regs := { Regs.zero with tos := f } }).reg .h

/-- L2-6. -/
theorem test_shifter :
    [1, 2, 3].map (fun b => shiftRun b 1#32) = [0#32, 0x100#32, 0#32]
    ∧ [1, 2, 3].map (fun b => shiftRun b 0x80000000#32) = [0xC0000000#32, 0#32, 0#32]
    ∧ [1, 2, 3].map (fun b => shiftRun b 0xFFFFFFFF#32) = [0xFFFFFFFF#32, 0xFFFFFF00#32, 0xFFFFFF00#32]
    ∧ [1, 2, 3].map (fun b => shiftRun b 0x12345678#32) = [0x091A2B3C#32, 0x34567800#32, 0x1A2B3C00#32]
    ∧ [1, 2, 3].map (fun b => shiftRun b 0x00800000#32) = [0x00400000#32, 0x80000000#32, 0x40000000#32]
    ∧ [1, 2, 3].map (fun b => shiftRun b 0x80000001#32) = [0xC0000000#32, 0x100#32, 0#32] := by decide

/-- L2-6: the two word vectors. -/
theorem test_shift_words :
    (run1 0x0090948005#40 { base with regs := { Regs.zero with lv := 0x12345678#32 } }).reg .h = 0x34567800#32
    ∧ (run1 0x0098F92000#40 { base with regs := { Regs.zero with h := 0x12345677#32 } }).reg .tos = 0x1A2B3C00#32 := by decide

/-- N and Z of the shifted TOS, seen through the next address of a JAMN and of a JAMZ word. -/
def flagsRun (tap : FlagTap) (bits : Nat) (f : Word) : List Bool :=
  let s : State := { base with regs := { Regs.zero with tos := f }, params := { base.params with flagTap := tap } }
  [2, 1].map fun j => decide ((run1 (BitVec.ofNat 40 (0x140007 + bits * 4194304 + j * 16777216)) s).mpc = 0x100#9)

/-- L2-7, post_shift. -/
theorem test_flags_post_shift :
    flagsRun .postShift 0 0#32 = [false, true] ∧ flagsRun .postShift 1 1#32 = [false, true]
    ∧ flagsRun .postShift 2 0x00800000#32 = [true, false] ∧ flagsRun .postShift 2 0x01000000#32 = [false, true]
    ∧ flagsRun .postShift 1 0x80000000#32 = [true, false] ∧ flagsRun .postShift 3 0xFFFFFFFF#32 = [true, false]
    ∧ flagsRun .postShift 0 0x7FFFFFFF#32 = [false, false] := by decide

/-- L2-7, pre_shift. -/
theorem test_flags_pre_shift :
    flagsRun .preShift 0 0#32 = [false, true] ∧ flagsRun .preShift 1 1#32 = [false, false]
    ∧ flagsRun .preShift 2 0x00800000#32 = [false, false] ∧ flagsRun .preShift 2 0x01000000#32 = [false, false]
    ∧ flagsRun .preShift 1 0x80000000#32 = [true, false] ∧ flagsRun .preShift 3 0xFFFFFFFF#32 = [true, false]
    ∧ flagsRun .preShift 0 0x7FFFFFFF#32 = [false, false] := by decide

-- ## The next address (L2-8)

/-- MPC after a word with B = TOS, ALU = B, no destination, the given jump bits and ADDR. -/
def nextRun (jumps addr : Nat) (r : Word) (mbr : Byte) : Slot :=
  (run1 (BitVec.ofNat 40 (0x140007 + jumps * 16777216 + addr * 134217728))
    { base with mbr := mbr, regs := { Regs.zero with tos := r } }).mpc

/-- L2-8: no modifier, JAMZ and JAMN. -/
theorem test_next_conditional :
    nextRun 0 0x1FF 5#32 0xFF#8 = 0x1FF#9 ∧ nextRun 1 2 0#32 0xFF#8 = 0x102#9 ∧ nextRun 1 2 1#32 0xFF#8 = 2#9
    ∧ nextRun 1 0x102 1#32 0#8 = 0x102#9 ∧ nextRun 2 1 0x80000000#32 0#8 = 0x101#9
    ∧ nextRun 2 1 0x7FFFFFFF#32 0#8 = 1#9 ∧ nextRun 2 1 0#32 0#8 = 1#9 := by decide

/-- L2-8: JMPC and the combinations. -/
theorem test_next_indirect_and_combined :
    nextRun 4 0 5#32 0xFF#8 = 0xFF#9 ∧ nextRun 4 0 5#32 0#8 = 0#9 ∧ nextRun 4 0x100 5#32 0x2A#8 = 0x12A#9
    ∧ nextRun 4 3 5#32 1#8 = 3#9 ∧ nextRun 4 3 5#32 4#8 = 7#9 ∧ nextRun 3 4 0xFFFFFFFF#32 0#8 = 0x104#9
    ∧ nextRun 3 4 0#32 0#8 = 0x104#9 ∧ nextRun 3 4 1#32 0#8 = 4#9 ∧ nextRun 5 0 0#32 0x10#8 = 0x110#9 := by decide

-- ## Memory (L2-2, L2-3, L3)

/-- The machine of L2-2 with the other byte order. -/
def big : State := { base with params := { base.params with byteOrder := .big } }

/-- L2-2: a word write as four bytes, in both byte orders; dropped out of range. -/
theorem test_word_write :
    (base.memWriteWord 2#32 0x11223344#32).mem = [(8, 0x44#8), (9, 0x33#8), (10, 0x22#8), (11, 0x11#8)]
    ∧ (big.memWriteWord 2#32 0x11223344#32).mem = [(8, 0x11#8), (9, 0x22#8), (10, 0x33#8), (11, 0x44#8)]
    ∧ (base.memWriteWord 16#32 5#32).mem = [] ∧ (base.memWriteWord 16#32 5#32).oorSeen = true
    ∧ (base.memWriteWord 15#32 5#32).oorSeen = false := by decide

/-- L2-2: word and byte reads at the edges, in both byte orders. -/
theorem test_reads :
    let m : Memory := [(4, 0xAA#8), (5, 0xBB#8), (6, 0xCC#8), (7, 0xDD#8), (63, 0x77#8)]
    let s : State := { base with mem := m }
    s.memReadWord 1#32 = 0xDDCCBBAA#32 ∧ State.memReadWord { big with mem := m } 1#32 = 0xAABBCCDD#32
    ∧ s.memReadWord 15#32 = 0x77000000#32 ∧ s.memReadWord 16#32 = 0#32 ∧ s.memReadWord 0x3FFFFFFF#32 = 0#32
    ∧ s.memReadWord 0xFFFFFFFF#32 = 0#32 ∧ s.memReadByte 63#32 = 0x77#8 ∧ s.memReadByte 64#32 = 0#8
    ∧ s.memReadByte 0xFFFFFFFF#32 = 0#8 := by decide

/-- L2-2: the range tests, on unbounded integers. -/
theorem test_ranges :
    base.wordInRange 15#32 = true ∧ base.wordInRange 16#32 = false ∧ base.wordInRange 0x3FFFFFFF#32 = false
    ∧ base.wordInRange 0xFFFFFFFF#32 = false ∧ base.byteInRange 63#32 = true ∧ base.byteInRange 64#32 = false
    ∧ base.byteInRange 0xFFFFFFFF#32 = false := by decide

/-- L2-3: memory bytes 4..7 = AA BB CC DD, SP = 1. -/
def l23 : State :=
  { base with regs := { Regs.zero with sp := 1#32 }, mem := [(4, 0xAA#8), (5, 0xBB#8), (6, 0xCC#8), (7, 0xDD#8)] }

/-- L2-3, first row: `MAR = SP; rd` arms, the next word's cycle lands. -/
theorem test_read_lands_next_cycle :
    (run1 0x00081400A4#40 l23).pendRead = true ∧ (run1 0x00081400A4#40 l23).reg .mdr = 0#32
    ∧ (run1 0x0010000000#40 (run1 0x00081400A4#40 l23)).reg .mdr = 0xDDCCBBAA#32
    ∧ (run1 0x0010000000#40 (run1 0x00081400A4#40 l23)).pendRead = false := by decide

/-- L2-3: the C bus overrides the landing, and a halt word strands it. -/
theorem test_landing_overridden_or_stranded :
    (run1 0x0010110100#40 (run1 0x00081400A4#40 l23)).reg .mdr = 1#32
    ∧ (run1 0x000000000F#40 (run1 0x00081400A4#40 l23)).reg .mdr = 0#32
    ∧ (run1 0x000000000F#40 (run1 0x00081400A4#40 l23)).pendRead = true := by decide

/-- L2-3: `MDR = TOS; wr; rd` writes now and reads the same value back in the next cycle. -/
theorem test_write_with_read :
    let s : State := { base with regs := { Regs.zero with mar := 3#32, tos := 0xCAFEBABE#32 } }
    (run1 0x0008140167#40 s).mem = [(12, 0xBE#8), (13, 0xBA#8), (14, 0xFE#8), (15, 0xCA#8)]
    ∧ (run1 0x0010148000#40 (run1 0x0008140167#40 s)).reg .h = 0xCAFEBABE#32
    ∧ (run1 0x0010148000#40 (run1 0x0008140167#40 s)).reg .mdr = 0xCAFEBABE#32 := by decide

/-- L3 P2, cycle 003: H takes MDR from before the landing, and cycle 006: the read out of range gives 0. -/
theorem test_p2_landings :
    let s3 : State := { base with pendRead := true, regs := { Regs.zero with mar := 2#32 },
                                  mem := [(8, 0x44#8), (9, 0x33#8), (10, 0x22#8), (11, 0x11#8)] }
    let s6 : State := { base with pendRead := true, regs := { Regs.zero with mar := 0x11223344#32, mdr := 0x11223344#32 } }
    (run1 0x0020148000#40 s3).reg .h = 0#32 ∧ (run1 0x0020148000#40 s3).reg .mdr = 0x11223344#32
    ∧ (run1 0x0038144000#40 s6).reg .opc = 0x11223344#32 ∧ (run1 0x0038144000#40 s6).reg .mdr = 0#32
    ∧ (run1 0x0038144000#40 s6).oorSeen = true := by decide

/-- L3 P3, cycles 000 and 001: PC wraps, the fetched byte lands and JMPC dispatches on it. -/
theorem test_p3_fetch_and_dispatch :
    let s0 : State := { base with regs := { Regs.zero with pc := 0xFFFFFFFF#32 }, mem := [(0, 0x10#8), (1, 0xFE#8)] }
    (run1 0x0008350211#40 s0).reg .pc = 0#32 ∧ (run1 0x0008350211#40 s0).pendFetch = true
    ∧ (run1 0x0004350211#40 (run1 0x0008350211#40 s0)).mpc = 0x10#9
    ∧ (run1 0x0004350211#40 (run1 0x0008350211#40 s0)).mbr = 0x10#8
    ∧ (run1 0x0004350211#40 (run1 0x0008350211#40 s0)).reg .pc = 1#32 := by decide

/-- L3 P3, cycle 010: the B bus reads MBR from before the landing. -/
theorem test_p3_mbr_before_landing :
    let s : State := { base with mbr := 0x10#8, pendFetch := true, regs := { Regs.zero with pc := 1#32 }, mem := [(1, 0xFE#8)] }
    (run1 0x0088142002#40 s).reg .tos = 0x10#32 ∧ (run1 0x0088142002#40 s).mbr = 0xFE#8 := by decide

/-- L3 P4: the sign test, and the corner of start C: the negation of 0x80000000 and its arithmetic shift. -/
theorem test_p4_words :
    (run1 0x000A144007#40 { base with regs := { Regs.zero with tos := 0xFFFFFFF6#32 } }).mpc = 0x101#9
    ∧ (run1 0x000A144007#40 { base with regs := { Regs.zero with tos := 7#32 } }).mpc = 1#9
    ∧ (run1 0x00083B2000#40 { base with regs := { Regs.zero with h := 0x80000000#32 } }).reg .tos = 0x80000000#32
    ∧ (run1 0x0010542007#40 { base with regs := { Regs.zero with tos := 0x80000000#32 } }).reg .tos = 0xC0000000#32 := by decide

/-- L1-1: one cycle. -/
theorem test_l1_1 :
    run1 0x0028140081#40 { base with regs := { Regs.zero with pc := 0x1234#32 } }
      = { (State.placeWord { base with regs := { Regs.zero with pc := 0x1234#32, mar := 0x1234#32 } } 0x0028140081#40) with
          mpc := 5#9 } := by decide

/-- The interface: the word placed for fetch is the one that runs, as the first instruction after reset. -/
theorem test_withFetchWord :
    (nextOf (step (State.reset.withFetchWord 40 0x00D012FF80))).map (fun t => t.mpc) = some 0x1A#9
    ∧ decodeTableWord 40 0x800000 = some (.shSll8 (z.setShift false true))
    ∧ decodeTableWord 8 0xF = some .halt := by decide

-- ## The codec and the decoder's text (L1-5, L2-12)

/-- L2-12: the bytes and both text forms. -/
theorem test_codec_bytes_and_text :
    bytesOf 0x0028140081#40 = [0x81#8, 0x00#8, 0x14#8, 0x28#8, 0x00#8]
    ∧ bytesOf 0x0FF8000000#40 = [0x00#8, 0x00#8, 0x00#8, 0xF8#8, 0x0F#8]
    ∧ encodeText .msbFirst 0x0028140081#40 = txt "0028140081" ∧ encodeText .byte0First 0x0028140081#40 = txt "8100142800"
    ∧ encodeText .byte0First 0x000A144007#40 = txt "0740140a00" ∧ encodeText .msbFirst 0x0000FDFF80#40 = txt "0000fdff80" := by
  decide

/-- L2-12: text is read back in either case of the digits; nine or eleven digits are refused. -/
theorem test_codec_decode_text :
    decodeText .msbFirst (txt "000a144007") = some 0x000A144007#40
    ∧ decodeText .msbFirst (txt "000A144007") = some 0x000A144007#40
    ∧ decodeText .byte0First (txt "81001428f0") = some 0xF028140081#40
    ∧ decodeText .msbFirst (txt "00A144007") = none ∧ decodeText .msbFirst (txt "0000A144007") = none
    ∧ decodeText .msbFirst (txt "000G144007") = none := by decide

/-- L2-12: the disassembly. -/
theorem test_disassemble :
    disassemble 0x0028140081#40 = txt "MAR = PC; goto 0x005;"
    ∧ disassemble 0x0804000000#40 = txt "goto (MBR or 0x100);"
    ∧ disassemble 0x000A144007#40 = txt "OPC = TOS; if (N) goto 0x101; else goto 0x001;"
    ∧ disassemble 0x0FF8000000#40 = txt "goto 0x1ff;"
    ∧ disassemble 0x00E0000050#40 = txt "wr; fetch; goto 0x01c;"
    ∧ disassemble 0xF028140081#40 = txt "MAR = PC; goto 0x005;" := by decide +kernel

/-- L2-12: all nine destinations and an undefined code. -/
theorem test_disassemble_all_destinations :
    disassemble 0x000000FF80#40
      = txt "MAR = MDR = PC = SP = LV = CPP = TOS = OPC = H = ALU(0x00); goto 0x000;" := by decide +kernel

-- ## The line encoder (L2-10)

/-- A bus-eligible register, H, and the number 1 as expressions. -/
abbrev reg (r : BSource) : Expr := .atom (.bus r)
abbrev hReg : Expr := .atom .h
abbrev num1 : Expr := .const 1

/-- The word of a line, if the encoder gives it one. -/
def wordOfLine (ops : List Operation) (successor : Option Nat) : Option ControlBits := (okOf (encodeLine ops successor)).join

/-- An assignment of one register. -/
def asg (r : Reg) (e : Expr) : Operation := .assign (.reg r) [] e

/-- L2-10, accepted lines with a successor. -/
theorem test_encode_lines :
    wordOfLine [.assign (.reg .mar) [.reg .sp] (.sub (reg .sp) num1), .read, .goto 0] (some 0x10)
      = some 0x00803704A4#40
    ∧ wordOfLine [asg .mdr (reg .tos), .write, .goto 0] (some 0x11) = some 0x0088140147#40
    ∧ wordOfLine [.assign (.reg .h) [] (.shiftLeft (reg .lv) 8), .goto 0] (some 0x12) = some 0x0090948005#40
    ∧ wordOfLine [.assign (.reg .tos) [] (.shiftLeft (.shiftRight (.add hReg num1) 1) 8), .goto 0] (some 0x13) = some 0x0098F92000#40
    ∧ wordOfLine [asg .h (.or hReg (reg .mbru)), .goto 0] (some 0x14) = some 0x00A01C8003#40
    ∧ wordOfLine [asg .opc (.not hReg), .goto 0] (some 0x15) = some 0x00A81A4000#40
    ∧ wordOfLine [asg .cpp (.not (reg .cpp)), .goto 0] (some 0x16) = some 0x00B02C1006#40
    ∧ wordOfLine [asg .lv (.sub (reg .opc) hReg), .goto 0] (some 0x17) = some 0x00B83F0808#40
    ∧ wordOfLine [asg .pc (.add (.add hReg (reg .pc)) num1), .goto 0] (some 0x18) = some 0x00C03D0201#40
    ∧ wordOfLine [asg .sp (.and hReg (reg .sp)), .goto 0] (some 0x19) = some 0x00C80C0404#40 := by decide

/-- L2-10, accepted lines without an assignment, indirect gotos, empty and halt. -/
theorem test_encode_lines_without_assignment :
    wordOfLine [.read, .goto 0] (some 0x1B) = some 0x00D8000020#40
    ∧ wordOfLine [.fetch, .write, .goto 0] (some 0x1C) = some 0x00E0000050#40
    ∧ wordOfLine [.indirectGoto 0x100] none = some 0x0804000000#40
    ∧ wordOfLine [.indirectGoto 0] none = some 0x0004000000#40
    ∧ wordOfLine [.empty] (some 0x1D) = some 0x00E8000000#40
    ∧ wordOfLine [.halt] none = some 0x000000000F#40
    ∧ wordOfLine [.assign (.reg .mar) [.reg .mdr, .reg .pc, .reg .sp, .reg .lv, .reg .cpp, .reg .tos, .reg .opc, .reg .h]
        (.neg num1), .goto 0] (some 0x1A) = some 0x00D012FF80#40 := by decide

/-- L2-10, rejected lines: operations. -/
theorem test_reject_operations :
    lineViolations [.read, .write, .goto 0] = [.readWithWrite] ∧ lineViolations [.read, .read, .goto 0] = [.readWithWrite]
    ∧ lineViolations [.fetch, .fetch, .goto 0] = [.secondFetch] ∧ lineViolations [.goto 0, .goto 1] = [.secondTransfer]
    ∧ lineViolations [asg .h (reg .tos), asg .opc (reg .tos), .goto 0] = [.secondAssignment]
    ∧ lineViolations [.empty, .read] = [.notAlone]
    ∧ lineViolations [.halt, .goto 0] = [.secondTransfer, .notAlone]
    ∧ lineViolations [.assign .mbr [] (reg .tos), .goto 0] = [.readOnlyTarget]
    ∧ lineViolations [.assign .mbru [] (reg .tos), .goto 0] = [.readOnlyTarget]
    ∧ lineViolations [.assign (.reg .h) [.reg .opc, .reg .h] (reg .tos), .goto 0] = [.repeatedTarget] := by
  decide

/-- R268: a name that is no register is no target. R260: a line with no operation has no word, whatever follows it. R267: a halt
word has no other bit. -/
theorem test_unknown_target_label_only_and_halt :
    lineViolations [.assign (.other (txt "MIR")) [] (reg .tos), .goto 0] = [.unknownTarget]
    ∧ okOf (encodeLine [] none) = some none ∧ okOf (encodeLine [] (some 5)) = some none
    ∧ wordOfLine [.halt] (some 5) = some 0x000000000F#40 := by decide

/-- L2-10, rejected lines: expressions. -/
theorem test_reject_expressions :
    [Expr.add (reg .tos) (reg .sp), .add hReg hReg, .sub hReg (reg .tos), .sub hReg num1, .neg (reg .tos), .atom .mar,
     .add hReg (.atom .mar)].all (fun e => decide (lineViolations [asg .h e, .goto 0] = [.illegalExpression])) = true := by
  decide

/-- R271: a register outside the nine and MBR/MBRU, and other shapes: R AND 1, 1 + H, R + 2, a nested sum, a complemented sum, the
left shift first, a shift by another count, and a shift inside the sum. -/
theorem test_reject_other_shapes :
    [Expr.atom (.other (txt "MPC")), .add hReg (.atom (.other (txt "MIR"))), .and (reg .tos) num1, .add num1 hReg,
     .add (reg .tos) (.const 2), .add hReg (.add (reg .tos) num1), .not (.add hReg (reg .tos)),
     .shiftRight (.shiftLeft (reg .tos) 8) 1, .shiftRight (reg .tos) 2, .add hReg (.shiftRight (reg .tos) 1)].all
      (fun e => decide (lineViolations [asg .h e, .goto 0] = [.illegalExpression])) = true := by decide

-- ## Placement (L1-2, L2-11, L3 P1)

/-- A line with a label and operations. -/
def line (l : Label) (pin : Option Nat) (ops : List Operation) : Line := ⟨some (l, pin), ops⟩

/-- A program of one conditional whose targets are lines 1 (true) and 2 (false), each pinned or not, and a line 3 pinned or
not. -/
def pairProg (t f x : Option Nat) : Program :=
  [⟨none, [asg .tos (reg .tos), .condIf .z 1 2]⟩, line 1 t [.halt], line 2 f [.halt], line 3 x [.halt]]

/-- Where the passes put the lines of `pairProg`, and their warnings. -/
def pairSlots (t f x : Option Nat) : Option (List (Option Nat) × List Diagnostic) :=
  (okOf (placeProgram (pairProg t f x))).map fun pl => ([1, 2, 3].map pl.slotOf, pl.warnings)

/-- L2-11: slot 0 pinned, the true target pinned, the false target pinned. -/
theorem test_placement_pairs :
    pairSlots none none (some 0) = some ([some 0x101, some 1, some 0], [])
    ∧ (pairSlots (some 0x105) none none).map (fun r => (r.1.take 2, r.2)) = some ([some 0x105, some 5], [])
    ∧ (pairSlots none (some 7) none).map (fun r => (r.1.take 2, r.2)) = some ([some 0x107, some 7], []) := by decide +kernel

/-- L2-11: the warnings. -/
theorem test_placement_warnings :
    (pairSlots (some 5) none none).map Prod.snd = some [⟨0, .pairUnplaceable⟩]
    ∧ (pairSlots (some 0x105) (some 6) none).map Prod.snd = some [⟨0, .pairMismatch⟩]
    ∧ (pairSlots (some 0x10) none (some 0x10)).map Prod.snd = some [⟨3, .pinTwice⟩, ⟨0, .pairUnplaceable⟩]
    ∧ (pairSlots none none (some 0x200)).map Prod.snd = some [⟨3, .pinOutOfRange⟩] := by decide +kernel

/-- L1-2: the second pair gets 1 and 257. -/
def twoConditionals : Program :=
  [⟨none, [asg .tos (reg .tos), .condIf .z 1 2]⟩, ⟨none, [asg .tos (reg .tos), .condIf .n 3 4]⟩,
   line 1 none [.halt], line 2 none [.halt], line 3 none [.halt], line 4 none [.halt]]

/-- L1-2. -/
theorem test_placement_source_example :
    (okOf (placeProgram twoConditionals)).map (fun pl => [2, 3, 4, 5].map pl.slotOf)
      = some [some 0x100, some 0, some 0x101, some 1] := by decide +kernel

/-- L2-11: with the cursor past the last pair, another pair is fatal. -/
theorem test_placement_exhausted :
    errorOf (pairStep { placed := [], cursor := 256, warnings := [] } 0 1 2) = some .pairsExhausted
    ∧ (okOf (pairStep { placed := [], cursor := 255, warnings := [] } 0 1 2)).map (fun pl => (pl.slotOf 1, pl.slotOf 2))
      = some (some 511, some 255) := by decide +kernel

/-- The program P1. -/
def p1 : Program :=
  [line 0 none [asg .h (.const 0), .goto 1], line 1 none [asg .h (.add hReg (reg .lv))],
   ⟨none, [asg .tos (.sub (reg .tos) num1), .condIf .z 2 1]⟩, line 2 none [asg .opc hReg], ⟨none, [.halt]⟩]

/-- The image of P1. -/
def p1Image : ControlImage :=
  { entry := 1#9
    store := [(0, 0x00103C8005#40), (1, 0x0000108000#40), (2, 0x0001372007#40), (3, 0x000000000F#40), (0x100, 0x0018184000#40)] }

/-- L3 P1: the assembled image. -/
theorem test_p1_assembles : okOf (assemble p1) = some p1Image := by decide +kernel

/-- A label-only line names the next line with operations (R260); a label that names none is reported, pinned or not, though nothing
refers to it (R314); and the pin of a label's second line places that line (the model's choice: log entry 14). -/
theorem test_label_lines :
    owner [line 7 none [], ⟨none, []⟩, ⟨none, [.halt]⟩] 7 = some 2
    ∧ errorOf (assemble [⟨none, [.halt]⟩, line 7 none []]) = some (.warnings [⟨1, .undefinedSymbol 7⟩])
    ∧ errorOf (assemble [⟨none, [.halt]⟩, line 7 (some 3) []]) = some (.warnings [⟨1, .undefinedSymbol 7⟩])
    ∧ (okOf (placeProgram [line 7 none [.goto 7], line 7 (some 9) [.halt]])).map (fun pl => [0, 1].map pl.slotOf)
      = some [some 0, some 9] := by decide +kernel

/-- L2-10: a program whose last line falls through is rejected, and so is an undefined label. -/
theorem test_assemble_rejects :
    errorOf (assemble [⟨none, [asg .h (reg .tos)]⟩]) = some (.warnings [⟨0, .noSuccessor⟩])
    ∧ errorOf (assemble [⟨none, [.goto 9]⟩]) = some (.warnings [⟨0, .undefinedSymbol 9⟩]) := by decide +kernel

/-- R314: every unbound label is reported: both of a conditional's, and that of a second transfer, beside the rule R264 it breaks. -/
theorem test_every_unbound_label :
    errorOf (assemble [⟨none, [asg .h (reg .tos), .condIf .z 8 9]⟩])
      = some (.warnings [⟨0, .undefinedSymbol 8⟩, ⟨0, .undefinedSymbol 9⟩])
    ∧ errorOf (assemble [line 1 none [.goto 1, .goto 2]])
      = some (.warnings [⟨0, .secondTransfer⟩, ⟨0, .undefinedSymbol 2⟩]) := by decide +kernel

-- ## Images (L1-4)

/-- The text of an image's first lines, two slots only. -/
def twoLines : Text := txt "entry: 1a3\n" ++ txt "000:  000a144007  any text\n" ++ txt "001:  000000000F  \n"

/-- A short image: two slots load, a missing line is refused. -/
theorem test_load_two_slots :
    okOf (loadSlots 2 .msbFirst twoLines) = some ⟨0x1A3#9, [(0, 0x000A144007#40), (1, 0x000000000F#40)]⟩
    ∧ errorOf (loadSlots 3 .msbFirst twoLines) = some (.tooFewLines 2) := by decide +kernel

/-- R319: an entry of 0x200, an entry that is no number, a missing entry line, and a bad word field. -/
theorem test_load_failures :
    errorOf (loadSlots 0 .msbFirst (txt "entry: 200\n")) = some (.entryOutOfRange 0x200)
    ∧ errorOf (loadSlots 0 .msbFirst (txt "entry: xyz\n")) = some .badEntry
    ∧ errorOf (loadSlots 0 .msbFirst (txt "000:  0000000000  \n")) = some .noEntryLine
    ∧ errorOf (loadSlots 1 .msbFirst (txt "entry: 000\n000:  000000000  \n")) = some (.badWord 0) := by decide +kernel

/-- The image text of L1-4 with the given number of all-zero word lines; the address column is not read. -/
def l14 (lines : Nat) : Text := txt "entry: 1a3\n" ++ (List.replicate lines (txt "000:  0000000000  text\n")).flatten

/-- L1-4: entry 1a3 and 512 lines load, with MPC 0x1A3 and every slot all-zero. -/
theorem test_load_512_lines :
    (okOf (constructFromText base.params (l14 512) Regs.zero 0#8 [])).map (fun s => (s.mpc, s.cs)) = some (0x1A3#9, []) := by
  decide +kernel

/-- L1-4: 511 lines are refused. -/
theorem test_load_511_lines : errorOf (loadImage .msbFirst (l14 511)) = some (.tooFewLines 511) := by decide +kernel

/-- What is written is read: an image of eight slots. -/
theorem test_load_written_image :
    okOf (loadSlots 8 .byte0First (imageText 8 .byte0First ⟨0x1A3#9, [(7, 0x0028140081#40)]⟩))
      = some ⟨0x1A3#9, [(7, 0x0028140081#40)]⟩ := by decide +kernel


-- ## Witnesses of the obligations' hypotheses

/-- A running state with `MAR = PC; goto 0x005;` at its MPC. -/
def wRun : State := base.placeWord 0x0028140081#40

theorem witness_O3_step_from_well_formed_stores :
    Safety.storesWellFormed wRun = true ∧ ∃ t, step wRun = .next t := ⟨by decide, _, rfl⟩

/-- Stores that are not empty, and a step that writes memory. -/
theorem witness_O3_write : let s := { base with cs := [(0, 0x0010140147#40), (511, 0x000000000F#40)], mem := [(0, 1#8), (63, 2#8)] }
    Safety.storesWellFormed s = true ∧ (nextOf (step s)).isSome = true := by decide

theorem witness_O4_a_step : ∃ t, step wRun = .next t := ⟨_, rfl⟩

theorem witness_O5_running_and_decoded :
    wRun.status = .running
    ∧ decode (Store.read wRun.cs wRun.mpc.toNat) = .cMar { z with bsrc := .pc, dest := { Dest.empty with mar := true }, alu := .b, addr := 5#9 } := by
  decide

/-- A halted and a faulted state. -/
theorem witness_O6_stopped :
    (haltedState base).status = .halted ∧ (base.afterFault (.invalidBSelect 0x1FF#9 9#4)).status = .faulted (.invalidBSelect 0x1FF#9 9#4) := by
  decide

theorem witness_O7_control_store :
    Store.wf p1Image.store = true ∧ (base.withFetchWord 40 0xFFFFFFFFFF).currentWord = 0xFFFFFFFFFF#40
    ∧ (base.withFetchWord 8 0xFFFFFFFFFF).currentWord = 0xFF#40 := by decide

/-- Well-formed instructions with every operand at its highest value, an undefined code, a reserved B value and HALT. -/
theorem witness_O8_well_formed :
    (Instr.memRdWr (microOf .opc 0xFFFFFFFFF8#40)).wellFormed = true ∧ (microOf .opc 0xFFFFFFFFF8#40).addr = 0x1FF#9
    ∧ (Instr.aluUndefined0x3E (z.setAlu (.undefined 0x3E#6))).wellFormed = true
    ∧ Instr.bReserved14.wellFormed = true ∧ Instr.halt.wellFormed = true := by decide

/-- Both clauses of O9 at the ends of their ranges. -/
theorem witness_O9_both_clauses :
    field 0xFFFFFFFFF8#40 0 4 < 9 ∧ field 0x0000000000#40 0 4 < 9 ∧ 9 ≤ field 0x0000000009#40 0 4
    ∧ 9 ≤ field 0xFFFFFFFFFF#40 0 4 := by decide

/-- `MAR = SP = SP - 1; rd; goto 0x010;` has its rows as readings; a halt word and a reserved word have one. -/
theorem witness_O10_readings :
    (readings 0x00803704A4#40).length = 8 ∧ .memRd (microOf .sp 0x00803704A4#40) ∈ readings 0x00803704A4#40
    ∧ .cSp (microOf .sp 0x00803704A4#40) ∈ readings 0x00803704A4#40 ∧ readings 0xFFFFFFFFFF#40 = [.halt]
    ∧ readings 0x000000000E#40 = [.bReserved14] := by decide

theorem witness_O12_unused_bits : (0xF028140081#40).toNat % 2 ^ 36 = (0x0028140081#40).toNat % 2 ^ 36
    ∧ 0xF028140081#40 ≠ 0x0028140081#40 := by decide

/-- A halt word at MPC, with every bit set. -/
theorem witness_O13_halt_word :
    (base.placeWord 0xFFFFFFFFFF#40).status = .running ∧ field (base.placeWord 0xFFFFFFFFFF#40).currentWord 0 4 = 15 := by decide

/-- Reserved words at both ends of the range, and the words beside them, which are not. -/
theorem witness_O14_O15_reserved_range :
    (base.placeWord 0xFFFFFFFFF9#40).status = .running ∧ field (base.placeWord 0xFFFFFFFFF9#40).currentWord 0 4 = 9
    ∧ field (base.placeWord 0x000000000E#40).currentWord 0 4 = 14
    ∧ field (base.placeWord 0xFFFFFFFFF8#40).currentWord 0 4 = 8 := by decide

theorem witness_O15_a_fault_and_a_step :
    faultOf (step (base.placeWord 0xFFFFFFFFF9#40)) = some (.invalidBSelect 0#9 9#4)
    ∧ (nextOf (step (base.placeWord 0xFFFFFFFFF8#40))).isSome = true := by decide

/-- A horizontal row over a memory that is not empty; also for the premises of O25 to O29 on the word of the next cycle. -/
theorem witness_O16_O25_to_O29_horizontal :
    Instr.control (.memWr (z.setAlu .zero)) = .micro ((z.setAlu .zero).setWr) ∧ Store.wf l23.mem = true := by decide

/-- O19 and O20: the premises on the jump bits. -/
theorem witness_O19_O20_jump_bits :
    (z.setNext true true false).jmpc = false ∧ (z.setNext true true false).jamz = true
    ∧ (z.setNext true true false).jamn = true := by decide

/-- O25, O26: a word that does not write memory, and a next word that is a bare JMPC. -/
theorem witness_O25_O26_next_word :
    z.wr = false ∧ Instr.control (.nextJmpc z) = .micro (z.setNext false false true) ∧ (z.setNext false false true).jamz = false
    ∧ (z.setNext false false true).jamn = false ∧ (z.setNext false false true).jmpc = true := by decide

/-- O27, O28, O29: a next word that spares MDR, and a write to the last word in range and to the first one out of range. -/
theorem witness_O27_to_O29_next_word_and_range :
    z.dest.mdr = false ∧ Store.wf base.mem = true
    ∧ (let s := { base with regs := { Regs.zero with mar := 15#32 } }
       4 * ((run1 0x0000000060#40 s).reg .mar).toNat + 4 ≤ s.params.memBytes)
    ∧ (let s := { base with regs := { Regs.zero with mar := 16#32 } }
       ¬ 4 * ((run1 0x0000000060#40 s).reg .mar).toNat + 4 ≤ s.params.memBytes) := by decide

theorem witness_O30_step_of_a_horizontal_word :
    wRun.status = .running ∧ field wRun.currentWord 0 4 < 9 ∧ ∃ t, step wRun = .next t := ⟨by decide, by decide, _, rfl⟩

/-- Both clauses of O31: no fetch pending, and one pending. -/
theorem witness_O31_both_clauses :
    (∃ t, step wRun = .next t) ∧ wRun.pendFetch = false
    ∧ (let s := { wRun with pendFetch := true }
       (nextOf (step s)).isSome = true ∧ s.pendFetch = true ∧ s.status = .running ∧ field s.currentWord 0 4 < 9) :=
  ⟨⟨_, rfl⟩, by decide, by decide⟩

/-- `MAR = PC` leaves PC's C bit clear. -/
theorem witness_O32_clear_bit :
    (∃ t, step wRun = .next t) ∧ getBit wRun.currentWord (7 + Reg.pc.cBit) = false ∧ Reg.pc ≠ .mdr := ⟨⟨_, rfl⟩, by decide, by decide⟩

/-- The last word of the memory, its last byte, and the addresses at both sides of it. -/
theorem witness_O34_last_word :
    4 * (15#32).toNat + 4 ≤ l23.params.memBytes ∧ Store.wf l23.mem = true ∧ 3 < 4 ∧ 59 < 4 * (15#32).toNat
    ∧ 4 * (15#32).toNat + 4 ≤ 64 := by decide

/-- Every clause of O35 at the edge of the memory. -/
theorem witness_O35_edges :
    4 * (15#32).toNat + 4 ≤ base.params.memBytes ∧ ¬ 4 * (16#32).toNat + 4 ≤ base.params.memBytes
    ∧ (63#32).toNat < base.params.memBytes ∧ ¬ (64#32).toNat < base.params.memBytes
    ∧ (let s := { wRun with oorSeen := true }
       (nextOf (step s)).isSome = true ∧ s.oorSeen = true)
    ∧ (let s := { wRun with pendRead := true, regs := { Regs.zero with mar := 16#32 } }
       s.status = .running ∧ field s.currentWord 0 4 < 9 ∧ (nextOf (step s)).isSome = true ∧ s.pendRead = true
         ∧ ¬ 4 * (s.reg .mar).toNat + 4 ≤ s.params.memBytes)
    ∧ (let s := { wRun with pendFetch := true, regs := { Regs.zero with pc := 64#32 } }
       s.status = .running ∧ field s.currentWord 0 4 < 9 ∧ (nextOf (step s)).isSome = true ∧ s.pendFetch = true
         ∧ ¬ (s.reg .pc).toNat < s.params.memBytes) := by decide

/-- The last bit and the whole width, and a value that fits its width. -/
theorem witness_O36_O37_positions : 0 + 40 ≤ 40 ∧ 27 + 9 ≤ 40 ∧ 39 < 40 ∧ 8 < 9 ∧ 0x1FF < 2 ^ 9 ∧ 40 + 0 ≤ 40 ∧ 0 < 2 ^ 0 := by decide

theorem witness_O38_lengths : 39 < 40 ∧ ([] : List Byte).length ≠ 5 ∧ (List.replicate 6 0#8).length ≠ 5 := by decide

/-- Legal lines with and without each kind of operation; the words are those of L2-10 and L2-12. -/
theorem witness_O39_legal_lines :
    wordOfLine [asg .mdr (reg .tos), .write, .goto 0] (some 0x11) = some 0x0088140147#40
    ∧ wordOfLine [asg .tos (.sub (reg .tos) num1), .condIf .z 0 1] (some 2) = some 0x0011372007#40
    ∧ wordOfLine [asg .opc (reg .tos), .condIf .n 0 1] (some 1) = some 0x000A144007#40
    ∧ wordOfLine [asg .pc (.add (reg .pc) num1), .fetch, .indirectGoto 0] none = some 0x0004350211#40
    ∧ wordOfLine [.halt] none = some 0x000000000F#40
    ∧ wordOfLine [.read, .goto 0] (some 0x1FF) = some 0x0FF8000020#40 := by decide

/-- An accepted form of every ALU row of R271, both operand orders included. -/
theorem witness_O40_accepted_forms :
    [hReg, reg .mbr, .not hReg, .not (reg .opc), .add hReg (reg .mdr), .add (reg .mdr) hReg,
     .add (.add hReg (reg .sp)) num1, .add (.add (reg .sp) hReg) num1, .add hReg num1, .add (reg .pc) num1, .sub (reg .tos) hReg,
     .sub (reg .sp) num1, .neg hReg, .and hReg (reg .mbru), .and (reg .mbru) hReg, .or hReg (reg .lv), .or (reg .cpp) hReg,
     .const 0, num1, .neg num1, .shiftLeft (.shiftRight (reg .tos) 1) 8].all (fun e => (encodeExpr e).isSome) = true := by decide

/-- An expression that names MAR below a shift, the operands of each rejected form, and both sides of its premise: no H and two. -/
theorem witness_O40_rejected_forms :
    namesForeignRegister (.shiftRight (.add hReg (.atom .mar)) 1) ∧ namesForeignRegister (.not (.atom (.other (txt "MIR"))))
    ∧ ((Atom.h = .h ↔ Atom.h = .h) ∧ (Atom.bus .tos = .h ↔ Atom.bus .sp = .h))
    ∧ ¬ ((∃ r, hReg = reg r) ∧ (num1 = hReg ∨ num1 = num1)) ∧ reg .tos ≠ hReg ∧ reg .tos ≠ num1 := by
  refine ⟨by simp [namesForeignRegister], by simp [namesForeignRegister], by simp, ?_, by decide, by decide⟩
  rintro ⟨⟨r, h⟩, -⟩
  cases h

/-- A program that assembles, with a goto, a conditional and a fall-through; and four distinct lines. -/
theorem witness_O41_O42_a_program :
    okOf (assemble p1) = some p1Image ∧ condAt p1 2 = some (2, 1) ∧ bearing p1 0 = true ∧ bearing p1 4 = true
    ∧ Operation.goto 1 ∈ opsAt p1 0 ∧ Operation.condIf .z 2 1 ∈ opsAt p1 2 ∧ [1, 0, 3, 2].Nodup := by decide +kernel

theorem witness_O42_fall_through : ∀ o ∈ opsAt p1 1, ¬ transfers o := by
  intro o ho
  have : o = asg .h (.add hReg (reg .lv)) := by simpa [opsAt, p1, line] using ho
  subst this
  simp [transfers, asg]

/-- A line of a program, with a label. -/
theorem witness_O47_a_line : p1[3]? = some (line 2 none [asg .opc hReg]) ∧ (line 2 none [asg .opc hReg]).label = some (2, none) := by
  decide

/-- An image that lists the first and the last slot. -/
theorem witness_O43_image :
    Store.wf [(0, 0x000A144007#40), (511, 0xFFFFFFFFFF#40)] = true
    ∧ Store.below 512 [(0, 0x000A144007#40), (511, 0xFFFFFFFFFF#40)] = true := by decide

/-- The first clause and the last clause of O44 at the ends of their ranges; the text of the clause on a constructed machine is
that of test_load_512_lines. -/
theorem witness_O44_short_text_and_entries :
    (linesOf (txt "entry: 1a3\n")).length < 513 ∧ 512 ≤ 0x200 ∧ 0x200 < 4096 ∧ 512 ≤ 0xFFF ∧ 0xFFF < 4096 := by decide

/-- A first line that is no entry line, and entries without a digit and with a character that is no digit. -/
theorem witness_O44_entry_lines :
    linesOf (txt "000:  0000000000  x\n") = [txt "000:  0000000000  x"]
    ∧ ¬ (txt "entry: ").isPrefixOf (txt "000:  0000000000  x") = true
    ∧ linesOf (txt "entry: \n") = [txt "entry: " ++ []] ∧ linesOf (txt "entry: 0g") = [txt "entry: " ++ txt "0g"]
    ∧ 'g' ∈ txt "0g" ∧ 'g' ∉ txt "0123456789abcdefABCDEF" := by decide

/-- A bad word field in the last of 512 word lines, nine digits, and one in the first, a letter that is no digit. -/
theorem witness_O44_bad_word_fields :
    (linesOf (l14 511 ++ txt "1ff:  000000000  x\n"))[512]? = some (txt "1ff:  000000000  x")
    ∧ (wordField (txt "1ff:  000000000  x")).length ≠ 10
    ∧ (linesOf (txt "entry: 0\n" ++ txt "000:  00000G0000  x"))[1]? = some (txt "000:  00000G0000  x")
    ∧ 'G' ∈ wordField (txt "000:  00000G0000  x") ∧ 'G' ∉ txt "0123456789abcdefABCDEF" := by decide +kernel

/-- Entries beyond the store in upper case and in four digits, and one in range. -/
theorem witness_O44_entry_values :
    linesOf (txt "entry: 2FF\n") = [txt "entry: " ++ txt "2FF"] ∧ hexNumber (txt "2FF") = 0x2FF
    ∧ hexNumber (txt "0200") = 0x200 ∧ hexNumber (txt "01ff") = 0x1FF
    ∧ ¬ notAHexNumber (txt "2FF") ∧ ¬ notAHexNumber (txt "0200") ∧ ¬ notAHexNumber (txt "01ff") := by
  refine ⟨by decide, by decide, by decide, by decide, ?_, ?_, ?_⟩ <;> simp [notAHexNumber, txt]

/-- The 512 word lines of L1-4 are ten hexadecimal digits each. -/
theorem l14_word_fields : ((linesOf (l14 512)).tail).length = 512
    ∧ ((linesOf (l14 512)).tail).all (fun l => decide (wordField l = txt "0000000000")) = true := by decide +kernel

/-- A text that meets the premises of O44's clause on a constructed machine. -/
theorem witness_O44_good_text : ∀ j, j < 512 → ∃ ln, ((linesOf (l14 512)).tail)[j]? = some ln ∧ (wordField ln).length = 10
    ∧ ¬ notAHexNumber (wordField ln) := by
  intro j hj
  obtain ⟨hlen, hall⟩ := l14_word_fields
  have hj' : j < ((linesOf (l14 512)).tail).length := by omega
  refine ⟨_, List.getElem?_eq_getElem hj', ?_⟩
  have hw := of_decide_eq_true (List.all_eq_true.mp hall _ (List.getElem_mem hj'))
  rw [hw]
  simp [notAHexNumber, txt]

/-- O48: a legal line with a read, an assignment and a transfer, and an illegal line, of L1-6. -/
theorem witness_O48_legal_and_illegal :
    LegalLine [.assign (.reg .mar) [.reg .sp] (.sub (reg .sp) num1), .read, .goto 0]
    ∧ ¬ LegalLine [.assign .mbr [] (reg .tos), .goto 0] ∧ ¬ LegalLine [.read, .read] ∧ ¬ LegalLine [.empty, .read] := by
  refine ⟨⟨by decide, by decide, by simp [transfers], by simp [assigns], by simp, ?_, ?_, ?_, by simp⟩, ?_, ?_, ?_⟩
  · intro t ts e h
    simp only [List.mem_cons, Operation.assign.injEq, reduceCtorEq, List.not_mem_nil, or_false] at h
    obtain ⟨rfl, rfl, -⟩ := h
    simp
  · intro t ts e h
    simp only [List.mem_cons, Operation.assign.injEq, reduceCtorEq, List.not_mem_nil, or_false] at h
    obtain ⟨rfl, rfl, -⟩ := h
    decide
  · intro t ts e h
    simp only [List.mem_cons, Operation.assign.injEq, reduceCtorEq, List.not_mem_nil, or_false] at h
    obtain ⟨-, -, rfl⟩ := h
    exact ⟨_, rfl⟩
  · intro h
    obtain ⟨r, hr⟩ := h.writableTargets .mbr [] (reg .tos) (by simp) .mbr (by simp)
    cases hr
  · intro h
    exact absurd h.readOrWrite (by decide)
  · intro h
    exact absurd (h.alone (by simp)) (by decide)

/-- O42, O49: a program that assembles with a pinned label that a goto names, and a conditional's labels. -/
theorem witness_O42_O49_pins_and_references :
    (okOf (assemble [⟨none, [.goto 7]⟩, line 7 (some 0x1FF) [.halt]])).map (fun img => img.store)
      = some [(0, 0x0FF8000000#40), (0x1FF, 0x000000000F#40)]
    ∧ pinAt [⟨none, [.goto 7]⟩, line 7 (some 0x1FF) [.halt]] 1 = some 0x1FF
    ∧ p1[2]? = some ⟨none, [asg .tos (.sub (reg .tos) num1), .condIf .z 2 1]⟩ := by decide +kernel

/-- O50: placed programs with an unbound reference, in the second of two transfers, and with an unbound label. -/
theorem witness_O50_unbound :
    (okOf (placeProgram [line 1 none [.goto 1, .goto 2]])).isSome = true ∧ owner [line 1 none [.goto 1, .goto 2]] 2 = none
    ∧ (okOf (placeProgram [⟨none, [.halt]⟩, line 7 none []])).isSome = true
    ∧ nextBearing [⟨none, [.halt]⟩, line 7 none []] 1 = none := by decide +kernel

end Sys2Proof.Tests
end

section
/-! PROOF. Family 30_encoding.md: the codec reads back what it sets (R92), and the text form round-trips (R95). -/

namespace Sys2Proof

-- ## The codec bit by bit (R92)

theorem getBit_clearWord (p : Nat) : getBit clearWord p = false := by simp [getBit, clearWord]

theorem field_clearWord (p n : Nat) : field clearWord p n = 0 := by simp [field, clearWord]

/-- Setting a bit of the word sets that bit only. -/
theorem getBit_setBit (w : ControlBits) {p : Nat} (hp : p < 40) (q : Nat) :
    getBit (setBit w p) q = (decide (q = p) || getBit w q) := by
  by_cases h : q = p
  · subst h
    simp [getBit, setBit, hp]
  · have hone : (1#40 <<< p).getLsbD q = false := by
      simp [BitVec.getLsbD_one]
      omega
    simp [getBit, setBit, hone, h]

/-- The mask of `set_bits` is 1 exactly at the n positions from p up. -/
theorem getLsbD_mask {p n q : Nat} (hpn : p + n ≤ 40) :
    (BitVec.ofNat 40 (2 ^ n - 1) <<< p).getLsbD q = decide (p ≤ q ∧ q < p + n) := by
  rw [BitVec.getLsbD_shiftLeft, BitVec.getLsbD_ofNat, Nat.testBit_two_pow_sub_one]
  by_cases hp : p ≤ q
  · have hlt : q - p < n ↔ q < p + n := by omega
    have hfit : q < p + n → q < 40 ∧ q - p < 40 := by omega
    by_cases hq : q < p + n <;> simp [hp, hq, hlt, hfit]
  · simp [hp, Nat.lt_of_not_le hp]

/-- `set_bits` replaces the n bits from p up by the bits of v and leaves every other bit. -/
theorem getBit_setBits (w : ControlBits) (v : Nat) {p n : Nat} (hpn : p + n ≤ 40) (q : Nat) :
    getBit (setBits w v p n) q = (if p ≤ q ∧ q < p + n then v.testBit (q - p) else getBit w q) := by
  simp only [getBit, setBits, BitVec.getLsbD_or, BitVec.getLsbD_and, BitVec.getLsbD_not, getLsbD_mask hpn]
  split
  · next h =>
    have hq : q < 40 := by omega
    have hqp : q - p < 40 := by omega
    simp [h, hq, hqp, BitVec.getLsbD_ofNat, -BitVec.getLsbD_eq_getElem]
  · next h =>
    simpa [h, -BitVec.getLsbD_eq_getElem] using BitVec.lt_of_getLsbD

/-- `get_bits` after `set_bits` at the same place gives the low n bits of the value set. -/
theorem field_setBits (w : ControlBits) (v : Nat) {p n : Nat} (hpn : p + n ≤ 40) :
    field (setBits w v p n) p n = v % 2 ^ n := by
  refine Nat.eq_of_testBit_eq fun k => ?_
  have hbit := getBit_setBits w v hpn (p + k)
  rw [getBit] at hbit
  rw [testBit_field, hbit, Nat.testBit_mod_two_pow]
  by_cases hk : k < n <;> simp [hk]

/-- A bit of a field is the word's bit at the field's offset. -/
theorem testBit_field_of_lt (w : ControlBits) (p : Nat) {n k : Nat} (hk : k < n) :
    (field w p n).testBit k = getBit w (p + k) := by
  simp [testBit_field, getBit, hk]

/-- Settles O36, clause by clause from the codec's bits: the value read back is compared bit by bit. -/
theorem theCodecReadsBackWhatItSets : Obligations.TheCodecReadsBackWhatItSets := by
  refine ⟨fun p n => ⟨getBit_clearWord p, field_clearWord p n⟩, fun w v p n q hpn _ => ?_⟩
  exact ⟨fun hp => getBit_setBit w hp q, getBit_setBits w v hpn q, field_setBits w v hpn,
    fun k hk => testBit_field_of_lt w p hk, field_lt w p n⟩

-- ## The text form (R94, R95)

/-- The digits of a number that they have room for spell it. -/
theorem parseHex_hexText {k n : Nat} (h : n < 16 ^ k) : parseHex (hexText k n) = some n := by
  rw [parseHex, parseHex_foldl_hexText, Nat.mod_eq_of_lt h, Nat.mul_zero, Nat.zero_add]

/-- Ten digits hold any word. -/
theorem parseHex_hexText_word (w : ControlBits) : parseHex (hexText 10 w.toNat) = some w.toNat :=
  parseHex_hexText w.isLt

/-- A word is made of its bytes (R93). -/
theorem wordOf_fields (w : ControlBits) :
    wordOf (BitVec.ofNat 8 (field w 0 8)) (BitVec.ofNat 8 (field w 8 8)) (BitVec.ofNat 8 (field w 16 8))
      (BitVec.ofNat 8 (field w 24 8)) (BitVec.ofNat 8 (field w 32 8)) = w := by
  refine BitVec.eq_of_toNat_eq ?_
  have hw := w.isLt
  simp only [wordOf_toNat, BitVec.toNat_ofNat, field]
  omega

/-- A byte of the word made of five bytes is read at its place. -/
theorem ofNat_field_wordOf (b0 b1 b2 b3 b4 : Byte) :
    BitVec.ofNat 8 (field (wordOf b0 b1 b2 b3 b4) 0 8) = b0 ∧ BitVec.ofNat 8 (field (wordOf b0 b1 b2 b3 b4) 8 8) = b1
      ∧ BitVec.ofNat 8 (field (wordOf b0 b1 b2 b3 b4) 16 8) = b2 ∧ BitVec.ofNat 8 (field (wordOf b0 b1 b2 b3 b4) 24 8) = b3
      ∧ BitVec.ofNat 8 (field (wordOf b0 b1 b2 b3 b4) 32 8) = b4 := by
  simp only [field, wordOf_toNat]
  refine ⟨?_, ?_, ?_, ?_, ?_⟩ <;> bv_omega

/-- The byte swap reverses the five bytes. -/
theorem swapBytes_wordOf (b0 b1 b2 b3 b4 : Byte) : swapBytes (wordOf b0 b1 b2 b3 b4) = wordOf b4 b3 b2 b1 b0 := by
  obtain ⟨h0, h1, h2, h3, h4⟩ := ofNat_field_wordOf b0 b1 b2 b3 b4
  rw [swapBytes, h0, h1, h2, h3, h4]

theorem swapBytes_swapBytes (w : ControlBits) : swapBytes (swapBytes w) = w :=
  (swapBytes_wordOf _ _ _ _ _).trans (wordOf_fields w)

theorem encodeText_length (order : HexOrder) (w : ControlBits) : (encodeText order w).length = 10 := by
  cases order <;> exact hexText_length 10 _

/-- The digits spell the word, or the swapped word, which the decoder swaps back. -/
theorem decodeText_encodeText (order : HexOrder) (w : ControlBits) : decodeText order (encodeText order w) = some w := by
  rw [decodeText, if_pos (encodeText_length order w)]
  cases order with
  | msbFirst => simp [encodeText, parseHex_hexText_word]
  | byte0First => simp [encodeText, parseHex_hexText_word, swapBytes_swapBytes]

/-- Settles O37: the digits round-trip in both orders (induction on the digits, and the byte swap undoes itself), and a
value below 2^n is its own low n bits. -/
theorem textFormRoundTrip : Obligations.TextFormRoundTrip := by
  refine ⟨fun order w => ⟨encodeText_length order w, decodeText_encodeText order w⟩, fun w v p n hpn hv => ?_⟩
  rw [field_setBits w v hpn, Nat.mod_eq_of_lt hv]

end Sys2Proof
end

section
/-! PROOF. Family 41_bbus.md: what drives the ALU's two inputs (R140 to R149, R152). -/

namespace Sys2Proof

open Sys2Proof.Machine Sys2Proof.Claims

-- ## Horizontal rows

/-- The registers after any row, for the word it executes; the result is from the state before (R122). -/
theorem completes_registersAre {i : Instr} {m : Micro} (h : i.control = .micro m) (s : State) :
    Completes i s (RegistersAre m.dest.has (result m s) s) :=
  ⟨cycleOf m s, exec_of_micro h s, cycleOf_reg m s⟩

theorem encode_of_micro {i : Instr} {m : Micro} (h : i.control = .micro m) : encode i = encodeMicro m := by
  rw [encode, h, encodeControl]

-- ## The B sources (R141 to R149)

/-- Sign extension keeps the signed value (R143). -/
theorem sext32_eq_ofInt (b : Byte) : sext32 b = BitVec.ofInt 32 b.toInt := rfl

/-- Zero extension keeps the unsigned value (R144). -/
theorem zext32_eq_ofNat (b : Byte) : zext32 b = BitVec.ofNat 32 b.toNat := (BitVec.ofNat_toNat 32 b).symm

/-- A word whose B field names a source feeds the ALU that source in place of its own. -/
theorem result_setB (m : Micro) (b : BSource) (s : State) : result (m.setB b) s
    = shifter (aluFunction m.alu (s.reg .h) (s.bInput b) (Config.draw32 s.draws)) m.sra1 m.sll8 := rfl

/-- The nine B rows at once: the destinations receive the function of H and the named source, and the encoding holds the
source's code. -/
theorem bRow_drives_source {i : Instr} {m : Micro} {b : BSource} (h : i.control = .micro (m.setB b)) (s : State) :
    Completes i s (RegistersAre m.dest.has
        (shifter (aluFunction m.alu (s.reg .h) (s.bInput b) (Config.draw32 s.draws)) m.sra1 m.sll8) s)
      ∧ field (encode i) 0 4 = b.code := by
  rw [← result_setB, encode_of_micro h]
  exact ⟨completes_registersAre h s, field_encodeMicro_b (m.setB b)⟩

/-- Settles O17: each row is `bRow_drives_source` at its source; MBR's two readings are the two extensions. -/
theorem theBSourceRowsDriveTheAluInput : Obligations.TheBSourceRowsDriveTheAluInput := by
  intro m s out
  refine ⟨bRow_drives_source (b := .mdr) rfl s, bRow_drives_source (b := .pc) rfl s, ?mbr, ?mbru,
    bRow_drives_source (b := .sp) rfl s, bRow_drives_source (b := .lv) rfl s, bRow_drives_source (b := .cpp) rfl s,
    bRow_drives_source (b := .tos) rfl s, bRow_drives_source (b := .opc) rfl s⟩
  case mbr =>
    rw [← sext32_eq_ofInt]
    exact bRow_drives_source (b := .mbr) rfl s
  case mbru =>
    rw [← zext32_eq_ofNat]
    exact bRow_drives_source (b := .mbru) rfl s

-- ## The A input, and what reaches neither input (R152)

theorem setReg_reg (s : State) (r x : Reg) (v : Word) : (s.setReg r v).reg x = if x = r then v else s.reg x :=
  Regs.get_set s.regs r x v

/-- The B-bus reads MBR and the seven registers other than H and MAR, and nothing else of the state. -/
theorem bInput_congr {s t : State} (hmbr : s.mbr = t.mbr) (hreg : ∀ x, x ≠ .h → x ≠ .mar → s.reg x = t.reg x)
    (b : BSource) : s.bInput b = t.bInput b := by
  cases b with
  | mbr => exact congrArg sext32 hmbr
  | mbru => exact congrArg zext32 hmbr
  | _ => exact hreg _ (by decide) (by decide)

theorem bInput_setReg_h (s : State) (v : Word) (b : BSource) : (s.setReg .h v).bInput b = s.bInput b :=
  bInput_congr rfl (fun x hh _ => by rw [setReg_reg, if_neg hh]) b

theorem bInput_setReg_mar (s : State) (v : Word) (b : BSource) : (s.setReg .mar v).bInput b = s.bInput b :=
  bInput_congr rfl (fun x _ hmar => by rw [setReg_reg, if_neg hmar]) b

theorem aInput_setReg_mar (s : State) (v : Word) : (s.setReg .mar v).aInput = s.aInput := setReg_reg s .mar .h v

/-- The ALU sees MAR through neither input, and the free value does not depend on registers. -/
theorem aluOutput_setReg_mar (m : Micro) (s : State) (v : Word) : aluOutput m (s.setReg .mar v) = aluOutput m s := by
  rw [aluOutput, aluOutput, aInput_setReg_mar, bInput_setReg_mar, State.setReg]

/-- Settles O33: the shifter's output depends on MAR only through the ALU's, and that not at all. -/
theorem marNeverReachesTheAlu : Obligations.MarNeverReachesTheAlu := by
  intro m s v
  have halu := aluOutput_setReg_mar m s v
  have hresult : result m (s.setReg .mar v) = result m s := by rw [result, result, halu]
  exact ⟨rfl, bInput_setReg_h s v, bInput_setReg_mar s v, hresult, halu⟩

end Sys2Proof
end

section
/-! PROOF. Family 42_memory_ops.md: a read with a fetch (R165). -/

namespace Sys2Proof

open Sys2Proof.Machine Sys2Proof.Claims

-- ## The word with both memory bits

/-- The row's word has FETCH in bit 4 and RD in bit 5. -/
theorem field_encode_memRdFetch (m : Micro) : field (encode (.memRdFetch m)) 4 2 = 3 :=
  (Laws.TableMatch.field_encodeMicro_mem m.setRd.setFetch).1

/-- Setting a field leaves a field without a common bit. -/
theorem field_setBits_of_disjoint (w : ControlBits) (v : Nat) {p n o k : Nat} (hpn : p + n ≤ 40)
    (h : o + k ≤ p ∨ p + n ≤ o) : field (setBits w v p n) o k = field w o k := by
  refine Nat.eq_of_testBit_eq fun j => ?_
  by_cases hj : j < k
  · rw [testBit_field_of_lt _ _ hj, testBit_field_of_lt _ _ hj, getBit_setBits w v hpn, if_neg (by omega)]
  · simp [testBit_field, hj]

/-- Writing the successor's address leaves the memory bits of a line's word (R314). -/
theorem memBits_addressedWord (ops : List Operation) (successor : Option Nat) :
    field (addressedWord ops successor) 4 2 = field (lineWord ops) 4 2 := by
  unfold addressedWord
  split
  · rfl
  · cases successor with
    | none => rfl
    | some a => exact field_setBits_of_disjoint (lineWord ops) a (by decide) (.inl (by decide))

/-- The encoder accepts a read beside a fetch, and sets both bits (R262, R263, R272). -/
theorem encodeLine_read_fetch (a : Option Nat) :
    ∃ w, encodeLine [.read, .fetch] a = .ok (some w) ∧ field w 4 2 = 3 := by
  have hlegal : lineViolations [.read, .fetch] = [] := by decide
  have hbits : field (lineWord [.read, .fetch]) 4 2 = 3 := by decide
  exact ⟨_, encodeLine_word.mpr ⟨hlegal, List.cons_ne_nil _ _, rfl⟩, (memBits_addressedWord _ a).trans hbits⟩

-- ## The two landings

/-- A word that does not name MDR leaves a landed read in it (R161). -/
theorem cycleOf_reg_mdr_of_pendRead {n : Micro} {t : State} (hpend : t.pendRead = true) (hmdr : n.dest.mdr = false) :
    (cycleOf n t).reg .mdr = t.memReadWord (t.reg .mar) := by
  have hdest : ¬ n.dest.has .mdr = true := by simp [Dest.has, hmdr]
  rw [cycleOf_reg, if_neg hdest, if_pos ⟨rfl, hpend⟩]

/-- A landed fetch is in MBR after the cycle (R164). -/
theorem cycleOf_mbr_of_pendFetch (n : Micro) {t : State} (hpend : t.pendFetch = true) :
    (cycleOf n t).mbr = t.memReadByte (t.reg .pc) := by
  rw [cycleOf_mbr, if_pos hpend]

/-- With both flags pending, the next horizontal word lands both (R165). -/
theorem completes_lands_both {j : Instr} {n : Micro} {t : State} (hj : j.control = .micro n) (hread : t.pendRead = true)
    (hfetch : t.pendFetch = true) : Completes j t (fun u =>
      (n.dest.mdr = false → u.reg .mdr = t.memReadWord (t.reg .mar)) ∧ u.mbr = t.memReadByte (t.reg .pc)) :=
  ⟨cycleOf n t, exec_of_micro hj t, cycleOf_reg_mdr_of_pendRead hread, cycleOf_mbr_of_pendFetch n hfetch⟩

/-- The read writes neither PC nor MBR and the fetch neither MAR nor MDR, so neither sees the other's landing, and OOR_SEEN
collects both ranges in either order (R65, R165). -/
theorem landRead_landFetch_comm (s : State) : s.landRead.landFetch = s.landFetch.landRead := by
  have hmbr : s.land.mbr = s.landFetch.landRead.mbr := s.land_mbr
  have hoor : s.land.oorSeen = s.landFetch.landRead.oorSeen := s.land_oorSeen.trans (Bool.or_right_comm ..)
  calc s.landRead.landFetch
      = { s.landFetch.landRead with mbr := s.land.mbr, oorSeen := s.land.oorSeen } := rfl
    _ = s.landFetch.landRead := by rw [hmbr, hoor]

/-- Settles O27: both flags are armed by the cycle's own bits, the next cycle lands both, and the encoder's word has the two
bits under any address. -/
theorem aReadWithAFetchArmsBoth : Obligations.AReadWithAFetchArmsBoth := by
  refine ⟨fun m s => ⟨field_encode_memRdFetch m, ?completes⟩, landRead_landFetch_comm, encodeLine_read_fetch⟩
  case completes =>
    have hread := cycleOf_pendRead m.setRd.setFetch s
    have hfetch := cycleOf_pendFetch m.setRd.setFetch s
    exact ⟨cycleOf m.setRd.setFetch s, exec_of_micro rfl s, hread, hfetch, cycleOf_reg _ s,
      fun _ _ hj => completes_lands_both hj hread hfetch⟩

end Sys2Proof
end

section
/-! PROOF. Family 43_cbus.md: MBR is no C-bus destination (R192). -/

namespace Sys2Proof

open Sys2Proof.Machine

/-- A word whose B field is below 9 is horizontal (R90). -/
theorem controlOf_micro_of_lt {w : ControlBits} (hb : field w 0 4 < 9) : ∃ m, controlOf w = .micro m := by
  rcases controlOf_cases w with ⟨hhalt, _⟩ | ⟨hreserved, _, _⟩ | ⟨_, b, _, hmicro⟩
  · omega
  · omega
  · exact ⟨microOf b w, hmicro⟩

/-- A running machine at a horizontal word runs one cycle (R122). -/
theorem step_eq_cycleOf_of_lt {s : State} (hrun : s.status = .running) (hb : field s.currentWord 0 4 < 9) :
    ∃ m, (decode s.currentWord).control = .micro m ∧ step s = .next (cycleOf m s) := by
  obtain ⟨m, hm⟩ := controlOf_micro_of_lt hb
  have hcontrol : (decode s.currentWord).control = .micro m := (decode_control _).trans hm
  exact ⟨m, hcontrol, (step_running hrun).trans (exec_of_micro hcontrol s)⟩

/-- Without a pending fetch a cycle leaves MBR: its C-bus writes and its landed read reach registers only (R192). -/
theorem cycleOf_mbr_of_not_pendFetch (m : Micro) {s : State} (hpend : s.pendFetch = false) :
    (cycleOf m s).mbr = s.mbr := by
  simp [cycleOf_mbr, hpend]

/-- A stopped machine and a halt word keep MBR, and a cycle keeps it when no fetch lands. -/
theorem step_mbr_of_not_pendFetch {s t : State} (hstep : step s = .next t) (hpend : s.pendFetch = false) :
    t.mbr = s.mbr := by
  rcases step_next_cases hstep with ⟨_, rfl⟩ | ⟨_, _, rfl⟩ | ⟨_, m, _, rfl⟩
  · rfl
  · rfl
  · exact cycleOf_mbr_of_not_pendFetch m hpend

/-- A horizontal word lands a pending fetch in MBR, whatever its other bits are (R164, R192). -/
theorem step_mbr_of_pendFetch {s t : State} (hstep : step s = .next t) (hpend : s.pendFetch = true)
    (hrun : s.status = .running) (hb : field s.currentWord 0 4 < 9) : t.mbr = s.memReadByte (s.reg .pc) := by
  obtain ⟨m, _, hcycle⟩ := step_eq_cycleOf_of_lt hrun hb
  obtain rfl : cycleOf m s = t := by simpa [hcycle] using hstep
  exact cycleOf_mbr_of_pendFetch m hpend

/-- Settles O31, by what a step can do: only the landing of a cycle writes MBR. -/
theorem onlyAFetchLandingWritesMbr : Obligations.OnlyAFetchLandingWritesMbr :=
  fun _ _ hstep => ⟨step_mbr_of_not_pendFetch hstep, step_mbr_of_pendFetch hstep⟩

end Sys2Proof
end

section
/-! PROOF. Family 44_alu_shift.md: the ALU's functions on numbers (R201 to R216) and the shifter (R218 to R221). -/

namespace Sys2Proof

open Sys2Proof.Machine Sys2Proof.Claims

-- ## The ALU rows

/-- The ALU rows at once: where the row's function of H and the word's own B input is v, the destinations receive the word's
shift of v, and the encoding holds the function's code. -/
theorem aluRow_computes {i : Instr} {m : Micro} {fn : AluFn} (h : i.control = .micro (m.setAlu fn)) {s : State} {v : Word}
    (hv : aluFunction fn (s.reg .h) (s.bInput m.bsrc) (Config.draw32 s.draws) = v) :
    Completes i s (RegistersAre m.dest.has (shifter v m.sra1 m.sll8) s) ∧ field (encode i) 16 6 = fn.code := by
  rw [← hv, encode_of_micro h]
  exact ⟨completes_registersAre h s, field_encodeMicro_alu (m.setAlu fn)⟩

-- ## The functions on numbers

/-- Complement is subtraction from the largest word (R203, R204). -/
theorem not_eq_ofNat (x : Word) : ~~~x = BitVec.ofNat 32 (4294967295 - x.toNat) :=
  (BitVec.toNat_eq_nat.mp BitVec.toNat_not).2

theorem and_eq_ofNat (x y : Word) : x &&& y = BitVec.ofNat 32 (Nat.land x.toNat y.toNat) :=
  (BitVec.toNat_eq_nat.mp (BitVec.toNat_and x y)).2

theorem or_eq_ofNat (x y : Word) : x ||| y = BitVec.ofNat 32 (Nat.lor x.toNat y.toNat) :=
  (BitVec.toNat_eq_nat.mp (BitVec.toNat_or x y)).2

theorem add_eq_ofNat (x y : Word) : x + y = BitVec.ofNat 32 ((x.toNat + y.toNat) % 2 ^ 32) :=
  (BitVec.toNat_eq_nat.mp (BitVec.toNat_add x y)).2

/-- Reducing once, after both additions, is enough (R206). -/
theorem add_add_one_eq_ofNat (x y : Word) : x + y + 1#32 = BitVec.ofNat 32 ((x.toNat + y.toNat + 1) % 2 ^ 32) := by
  refine (BitVec.toNat_eq_nat.mp ?_).2
  rw [BitVec.toNat_add, BitVec.toNat_add, Nat.mod_add_mod]
  rfl

/-- A difference may be negative before the reduction (R209 to R211). -/
theorem sub_eq_ofInt (x y : Word) : x - y = BitVec.ofInt 32 (((x.toNat : Int) - (y.toNat : Int)) % 2 ^ 32) := by
  refine BitVec.eq_of_toNat_eq ?_
  rw [BitVec.toNat_sub, BitVec.toNat_ofInt]
  omega

/-- Settles O21: each row is `aluRow_computes` at its function, a sum or a difference of two words; B-1 and -H subtract 1 and
subtract from 0. -/
theorem theArithmeticAluRowsAreModulo2To32 : Obligations.TheArithmeticAluRowsAreModulo2To32 := by
  intro m s a b after
  have hneg : -a = BitVec.ofInt 32 ((0 - (a.toNat : Int)) % 2 ^ 32) := (BitVec.zero_sub a).symm.trans (sub_eq_ofInt 0#32 a)
  exact ⟨aluRow_computes (fn := .hPlusB) rfl (add_eq_ofNat a b),
    aluRow_computes (fn := .hPlusBPlus1) rfl (add_add_one_eq_ofNat a b),
    aluRow_computes (fn := .hPlus1) rfl (add_eq_ofNat a 1#32),
    aluRow_computes (fn := .bPlus1) rfl (add_eq_ofNat b 1#32),
    aluRow_computes (fn := .bMinusH) rfl (sub_eq_ofInt b a),
    aluRow_computes (fn := .bMinus1) rfl (sub_eq_ofInt b 1#32),
    aluRow_computes (fn := .negH) rfl hneg⟩

-- ## The constants steer the next address (R214, R216)

/-- Bit 8 of the next address: ADDR's own, or set by JAMZ or JAMN; the instruction byte does not reach it (R240). -/
theorem nextAddress_getLsbD_8 (m : Micro) (z n : Bool) (byte : Byte) : (nextAddress m z n byte).getLsbD 8
    = (m.addr.getLsbD 8 || m.jamz && z || m.jamn && n) := by
  have hbit : ∀ c : Bool, (if c = true then 0x100#9 else 0#9).getLsbD 8 = c := by decide
  have hbyte : (if m.jmpc = true then byte.setWidth 9 else 0#9).getLsbD 8 = false := by
    split <;> simp [BitVec.getLsbD_setWidth, -BitVec.getLsbD_eq_getElem]
  rw [nextAddress, BitVec.getLsbD_or, BitVec.getLsbD_or, BitVec.getLsbD_or, hbit, hbit, hbyte, Bool.or_false]

/-- JAMZ with a zero tapped value goes to the high address. -/
theorem cycleOf_mpc_high_of_zFlag {m : Micro} {s : State} (hjam : m.jamz = true)
    (hz : zFlag (tapped s.params.flagTap (aluOutput m s) (result m s)) = true) :
    (cycleOf m s).mpc.getLsbD 8 = true := by
  rw [cycleOf_mpc, nextAddress_getLsbD_8, hjam, hz, Bool.and_self, Bool.or_true, Bool.true_or]

/-- JAMN with a negative tapped value goes to the high address. -/
theorem cycleOf_mpc_high_of_nFlag {m : Micro} {s : State} (hjam : m.jamn = true)
    (hn : nFlag (tapped s.params.flagTap (aluOutput m s) (result m s)) = true) :
    (cycleOf m s).mpc.getLsbD 8 = true := by
  rw [cycleOf_mpc, nextAddress_getLsbD_8, hjam, hn, Bool.and_self, Bool.or_true]

/-- Zero stays zero under every shift, so Z is set at either tap. -/
theorem zFlag_tapped_zero (tap : FlagTap) (sra1 sll8 : Bool) : zFlag (tapped tap 0#32 (shifter 0#32 sra1 sll8)) = true := by
  cases tap with
  | postShift => decide +revert
  | preShift => decide +revert

/-- -1 stays negative under every shift, so N is set at either tap. -/
theorem nFlag_tapped_minusOne (tap : FlagTap) (sra1 sll8 : Bool) :
    nFlag (tapped tap 0xFFFFFFFF#32 (shifter 0xFFFFFFFF#32 sra1 sll8)) = true := by
  cases tap with
  | postShift => decide +revert
  | preShift => decide +revert

/-- Settles O20: each row is `aluRow_computes` at its function; the two corner cases are the constants' flags. -/
theorem theLogicAndConstantAluRowsGiveTheirFunction : Obligations.TheLogicAndConstantAluRowsGiveTheirFunction := by
  intro m s a b after
  exact ⟨aluRow_computes (fn := .h) rfl rfl,
    aluRow_computes (fn := .b) rfl rfl,
    aluRow_computes (fn := .notH) rfl (not_eq_ofNat a),
    aluRow_computes (fn := .notB) rfl (not_eq_ofNat b),
    aluRow_computes (fn := .hAndB) rfl (and_eq_ofNat a b),
    aluRow_computes (fn := .hOrB) rfl (or_eq_ofNat a b),
    aluRow_computes (fn := .zero) rfl rfl,
    aluRow_computes (fn := .one) rfl rfl,
    aluRow_computes (fn := .minusOne) rfl rfl,
    ⟨cycleOf (m.setAlu .zero) s, exec_of_micro rfl s,
      fun hjam => cycleOf_mpc_high_of_zFlag (m := m.setAlu .zero) hjam (zFlag_tapped_zero s.params.flagTap m.sra1 m.sll8)⟩,
    ⟨cycleOf (m.setAlu .minusOne) s, exec_of_micro rfl s,
      fun hjam => cycleOf_mpc_high_of_nFlag (m := m.setAlu .minusOne) hjam
        (nFlag_tapped_minusOne s.params.flagTap m.sra1 m.sll8)⟩⟩

-- ## The shift rows (R218 to R221)

/-- SLL8 multiplies by 256 modulo 2^32 (R219). -/
theorem sll8Of_eq_ofNat (t : Word) : sll8Of t = BitVec.ofNat 32 (t.toNat * 256 % 2 ^ 32) := by
  refine (BitVec.toNat_eq_nat.mp ?_).2
  rw [sll8Of, BitVec.toNat_shiftLeft, Nat.shiftLeft_eq]

/-- The shift rows at once: where the row's shift of the ALU output is r, the destinations receive r, and the encoding holds
the two bits. -/
theorem shiftRow_computes {i : Instr} {m : Micro} {sra1 sll8 : Bool} (h : i.control = .micro (m.setShift sra1 sll8))
    {s : State} {r : Word} (hr : shifter (aluOutput m s) sra1 sll8 = r) :
    Completes i s (RegistersAre m.dest.has r s) ∧ field (encode i) 22 2 = sra1.toNat + 2 * sll8.toNat := by
  rw [← hr, encode_of_micro h]
  exact ⟨completes_registersAre h s, field_encodeMicro_shift (m.setShift sra1 sll8)⟩

/-- Settles O23: each row is `shiftRow_computes` at its two bits; with both, the left shift takes the right shift's value. -/
theorem theShiftRowsShiftRightThenLeft : Obligations.TheShiftRowsShiftRightThenLeft := by
  intro m s f after
  have hsra : sra1Of f = f.sshiftRight 1 := sra1Of_eq_sshiftRight f
  have hboth : sll8Of (sra1Of f) = BitVec.ofNat 32 ((f.sshiftRight 1).toNat * 256 % 2 ^ 32) := by
    rw [hsra, sll8Of_eq_ofNat]
  exact ⟨shiftRow_computes (sra1 := false) (sll8 := false) rfl rfl,
    shiftRow_computes (sra1 := true) (sll8 := false) rfl hsra,
    shiftRow_computes (sra1 := false) (sll8 := true) rfl (sll8Of_eq_ofNat f),
    shiftRow_computes (sra1 := true) (sll8 := true) rfl hboth⟩

end Sys2Proof
end

section
/-! PROOF. Family 47_placement_image.md: every move of a placement keeps the slots distinct and inside the store, and the
pairs a placement without warnings makes (R310 to R315). -/

namespace Sys2Proof.Machine

-- ## What every move of a placement keeps (R310)

/-- Every placed line has a slot of the store, and no other line has it. -/
structure Placement.Sound (pl : Placement) : Prop where
  lt : ∀ {i a}, pl.slotOf i = some a → a < 512
  inj : ∀ {i j a}, pl.slotOf i = some a → pl.slotOf j = some a → i = j

/-- A later stage of a placement: placed lines stay where they are, warnings stay, and a sound placement stays sound. -/
structure Placement.Extends (pl pl' : Placement) : Prop where
  slotOf : ∀ {i a}, pl.slotOf i = some a → pl'.slotOf i = some a
  warnings : pl'.warnings = [] → pl.warnings = []
  sound : pl.Sound → pl'.Sound

theorem Placement.Extends.refl (pl : Placement) : pl.Extends pl := ⟨id, id, id⟩

theorem Placement.Extends.trans {pl pl' pl'' : Placement} (h : pl.Extends pl') (h' : pl'.Extends pl'') : pl.Extends pl'' :=
  ⟨h'.slotOf ∘ h.slotOf, h.warnings ∘ h'.warnings, h'.sound ∘ h.sound⟩

theorem Placement.warn_warnings_ne_nil (pl : Placement) (i : Nat) (v : Violation) : (pl.warn i v).warnings ≠ [] := by
  simp [Placement.warn]

theorem Placement.extends_warn (pl : Placement) (i : Nat) (v : Violation) : pl.Extends (pl.warn i v) :=
  ⟨id, fun h => absurd h (pl.warn_warnings_ne_nil i v), fun h => ⟨h.lt, h.inj⟩⟩

/-- The cursor places nothing. -/
theorem Placement.extends_cursor (pl : Placement) (n : Nat) : pl.Extends { pl with cursor := n } :=
  ⟨id, id, fun h => ⟨h.lt, h.inj⟩⟩

theorem Placement.slotOf_place (pl : Placement) (i a j : Nat) :
    (pl.place i a).slotOf j = if i = j then some a else pl.slotOf j := by
  split
  · next h => exact h ▸ pl.slotOf_place_self i a
  · next h => exact pl.slotOf_place_ne a h

theorem Placement.free_place (pl : Placement) (i : Nat) {a b : Nat} (h : a ≠ b) : (pl.place i a).free b = pl.free b := by
  simp [Placement.free, Placement.place, h]

/-- A line in a slot of the store that was free shares it with no line. -/
theorem Placement.Sound.place {pl : Placement} (h : pl.Sound) (i : Nat) {a : Nat} (hfree : pl.free a = true)
    (hlt : a < 512) : (pl.place i a).Sound := by
  have hother := slotOf_ne_of_free hfree
  constructor
  case lt =>
    intro j b hj
    rw [slotOf_place] at hj
    split at hj
    · cases hj
      exact hlt
    · exact h.lt hj
  case inj =>
    intro j k b hj hk
    rw [slotOf_place] at hj hk
    split at hj <;> split at hk
    · simp_all
    · cases hj
      exact absurd hk (hother k)
    · cases hk
      exact absurd hj (hother j)
    · exact h.inj hj hk

/-- An unplaced line put in a free slot of the store. -/
theorem Placement.extends_place {pl : Placement} {i a : Nat} (hnew : pl.slotOf i = none) (hfree : pl.free a = true)
    (hlt : pl.Sound → a < 512) : pl.Extends (pl.place i a) where
  slotOf {j b} hj := by
    have hne : i ≠ j := by
      rintro rfl
      simp [hnew] at hj
    rw [slotOf_place_ne pl a hne, hj]
  warnings := id
  sound h := h.place i hfree (hlt h)

-- ## The absolute pass (R311)

/-- What the absolute pass can do at a line: nothing, where no pin or no line is named, warn, or put the line it names in a
free slot of the store. -/
theorem absoluteStep_cases (p : Program) (pl : Placement) (i : Nat) :
    (absoluteStep p pl i = pl ∧ (pinAt p i = none ∨ nextBearing p i = none))
      ∨ (∃ v, absoluteStep p pl i = pl.warn i v)
      ∨ ∃ a j, pinAt p i = some a ∧ nextBearing p i = some j ∧ a < 512 ∧ pl.slotOf j = none ∧ pl.free a = true
          ∧ absoluteStep p pl i = pl.place j a := by
  unfold absoluteStep
  cases hpin : pinAt p i with
  | none => exact .inl ⟨rfl, .inl rfl⟩
  | some a =>
    cases hline : nextBearing p i with
    | none =>
      dsimp only
      split_ifs
      · exact .inr (.inl ⟨_, rfl⟩)
      · exact .inr (.inl ⟨_, rfl⟩)
      · exact .inl ⟨rfl, .inr rfl⟩
    | some j =>
      dsimp only
      split_ifs with hout htwice htaken
      · exact .inr (.inl ⟨_, rfl⟩)
      · exact .inr (.inl ⟨_, rfl⟩)
      · exact .inr (.inl ⟨_, rfl⟩)
      · simp only [Bool.or_eq_true, Bool.not_eq_true', not_or, Option.not_isSome_iff_eq_none, Bool.not_eq_false] at htaken
        exact .inr (.inr ⟨a, j, rfl, rfl, Nat.lt_of_not_le hout, htaken.1, htaken.2, rfl⟩)

theorem absoluteStep_extends (p : Program) (pl : Placement) (i : Nat) : pl.Extends (absoluteStep p pl i) := by
  rcases absoluteStep_cases p pl i with ⟨h, -⟩ | ⟨v, h⟩ | ⟨a, j, -, -, hlt, hnew, hfree, h⟩ <;> rw [h]
  · exact .refl pl
  · exact pl.extends_warn i v
  · exact Placement.extends_place hnew hfree fun _ => hlt

/-- The placement every pass starts from: an empty store and the cursor at 0. -/
def Placement.empty : Placement := { placed := [], cursor := 0, warnings := [] }

theorem Placement.slotOf_empty (i : Nat) : empty.slotOf i = none := rfl

theorem Placement.empty_sound : empty.Sound := ⟨nofun, nofun⟩

theorem absolutePass_sound (p : Program) : (absolutePass p).Sound :=
  List.foldlRecOn (motive := Placement.Sound) _ _ Placement.empty_sound
    fun pl h i _ => (absoluteStep_extends p pl i).sound h

-- ## The paired-branch pass (R312)

/-- The pair of two unplaced targets: F at k and T at k + 256, with the cursor past k. -/
def Placement.placePair (pl : Placement) (t f k : Nat) : Placement :=
  { (pl.place f k).place t (k + 256) with cursor := k + 1 }

theorem Placement.slotOf_placePair (pl : Placement) (t f k j : Nat) :
    (pl.placePair t f k).slotOf j = ((pl.place f k).place t (k + 256)).slotOf j := rfl

theorem Placement.slotOf_placePair_true (pl : Placement) (t f k : Nat) : (pl.placePair t f k).slotOf t = some (k + 256) :=
  slotOf_place_self _ t _

theorem Placement.slotOf_placePair_false (pl : Placement) {t f : Nat} (k : Nat) (h : t ≠ f) :
    (pl.placePair t f k).slotOf f = some k := by
  rw [slotOf_placePair, slotOf_place_ne _ _ h, slotOf_place_self]

theorem Placement.slotOf_placePair_ne (pl : Placement) {t f j : Nat} (k : Nat) (ht : t ≠ j) (hf : f ≠ j) :
    (pl.placePair t f k).slotOf j = pl.slotOf j := by
  rw [slotOf_placePair, slotOf_place_ne _ _ ht, slotOf_place_ne _ _ hf]

theorem Placement.extends_placePair {pl : Placement} {t f k : Nat} (ht : pl.slotOf t = none) (hf : pl.slotOf f = none)
    (hne : t ≠ f) (hk : k < 256) (hlow : pl.free k = true) (hhigh : pl.free (k + 256) = true) :
    pl.Extends (pl.placePair t f k) := by
  have hfalse : pl.Extends (pl.place f k) := extends_place hf hlow fun _ => by omega
  have htrue : (pl.place f k).Extends ((pl.place f k).place t (k + 256)) :=
    extends_place ((slotOf_place_ne pl k hne.symm).trans ht) ((pl.free_place f (by omega)).trans hhigh) fun _ => by omega
  exact (hfalse.trans htrue).trans (extends_cursor _ _)

/-- What the paired-branch pass can do at a conditional: warn, find the targets paired, place the false or the true target
beside the other, or place both at a free pair. -/
theorem pairStep_cases {pl pl' : Placement} {i t f : Nat} (h : pairStep pl i t f = .ok pl') :
    (∃ v, pl' = pl.warn i v)
      ∨ (∃ a, pl.slotOf t = some (a + 256) ∧ pl.slotOf f = some a ∧ pl' = pl)
      ∨ (∃ a, pl.slotOf t = some (a + 256) ∧ pl.slotOf f = none ∧ pl.free a = true ∧ pl' = pl.place f a)
      ∨ (∃ a, pl.slotOf t = none ∧ pl.slotOf f = some a ∧ a < 256 ∧ pl.free (a + 256) = true ∧ pl' = pl.place t (a + 256))
      ∨ (∃ k, pl.slotOf t = none ∧ pl.slotOf f = none ∧ t ≠ f ∧ k < 256 ∧ pl.free k = true ∧ pl.free (k + 256) = true
          ∧ pl' = pl.placePair t f k) := by
  unfold pairStep at h
  split at h
  case h_1 at_ af ht hf =>
    cases h
    split
    · next heq => exact .inr (.inl ⟨af, heq ▸ ht, hf, rfl⟩)
    · exact .inl ⟨_, rfl⟩
  case h_2 at_ ht hf =>
    cases h
    split
    · exact .inl ⟨_, rfl⟩
    · next hok =>
      simp only [Bool.or_eq_true, decide_eq_true_eq, Bool.not_eq_true', not_or, Bool.not_eq_false] at hok
      have heq : at_ - 256 + 256 = at_ := Nat.sub_add_cancel (Nat.le_of_not_lt hok.1)
      exact .inr (.inr (.inl ⟨at_ - 256, heq.symm ▸ ht, hf, hok.2, rfl⟩))
  case h_3 af ht hf =>
    cases h
    split
    · exact .inl ⟨_, rfl⟩
    · next hok =>
      simp only [Bool.or_eq_true, decide_eq_true_eq, Bool.not_eq_true', not_or, Bool.not_eq_false] at hok
      exact .inr (.inr (.inr (.inl ⟨af, ht, hf, Nat.lt_of_not_le hok.1, hok.2, rfl⟩)))
  case h_4 ht hf =>
    split at h
    · cases h
      exact .inl ⟨_, rfl⟩
    · next hne =>
      split at h
      · cases h
      · next k hk =>
        cases h
        obtain ⟨hge, hlt, hfree, -⟩ := leastFrom_some hk
        obtain ⟨hlow, hhigh⟩ := Bool.and_eq_true_iff.mp hfree
        exact .inr (.inr (.inr (.inr ⟨k, ht, hf, hne, by omega, hlow, hhigh, rfl⟩)))

theorem pairStep_extends {pl pl' : Placement} {i t f : Nat} (h : pairStep pl i t f = .ok pl') : pl.Extends pl' := by
  rcases pairStep_cases h with ⟨v, rfl⟩ | ⟨a, -, -, rfl⟩ | ⟨a, ht, hf, hfree, rfl⟩ | ⟨a, ht, hf, hlt, hfree, rfl⟩
    | ⟨k, ht, hf, hne, hk, hlow, hhigh, rfl⟩
  · exact pl.extends_warn i v
  · exact .refl _
  · exact Placement.extends_place hf hfree fun hs => by have := hs.lt ht; omega
  · exact Placement.extends_place ht hfree fun _ => by omega
  · exact Placement.extends_placePair ht hf hne hk hlow hhigh

/-- Lines t and f are a conditional's true and false targets in the right slots (R315). -/
def Placement.Paired (pl : Placement) (t f : Nat) : Prop := ∃ a, pl.slotOf t = some (a + 0x100) ∧ pl.slotOf f = some a

theorem Placement.Extends.paired {pl pl' : Placement} (h : pl.Extends pl') {t f : Nat} : pl.Paired t f → pl'.Paired t f :=
  fun ⟨a, ht, hf⟩ => ⟨a, h.slotOf ht, h.slotOf hf⟩

/-- Unless it warns, the pass leaves the targets paired. -/
theorem pairStep_paired {pl pl' : Placement} {i t f : Nat} (h : pairStep pl i t f = .ok pl') (hw : pl'.warnings = []) :
    pl'.Paired t f := by
  have hext := pairStep_extends h
  rcases pairStep_cases h with ⟨v, rfl⟩ | ⟨a, ht, hf, rfl⟩ | ⟨a, ht, -, -, rfl⟩ | ⟨a, -, hf, -, -, rfl⟩
    | ⟨k, -, -, hne, -, -, -, rfl⟩
  · exact absurd hw (pl.warn_warnings_ne_nil i v)
  · exact ⟨a, ht, hf⟩
  · exact ⟨a, hext.slotOf ht, pl.slotOf_place_self f a⟩
  · exact ⟨a, pl.slotOf_place_self t _, hext.slotOf hf⟩
  · exact ⟨k, pl.slotOf_placePair_true t f k, pl.slotOf_placePair_false k hne⟩

/-- Two unplaced targets go to the pair at the cursor if that pair is free. -/
theorem pairStep_at_cursor {pl : Placement} {t f : Nat} (i : Nat) (ht : pl.slotOf t = none) (hf : pl.slotOf f = none)
    (hne : t ≠ f) (hk : pl.cursor < 256) (hlow : pl.free pl.cursor = true) (hhigh : pl.free (pl.cursor + 256) = true) :
    pairStep pl i t f = .ok (pl.placePair t f pl.cursor) := by
  obtain ⟨n, hn⟩ : ∃ n, 256 - pl.cursor = n + 1 := ⟨255 - pl.cursor, by omega⟩
  simp only [pairStep, ht, hf, if_neg hne, hn, leastFrom, hlow, hhigh, Bool.and_self, if_true, Placement.placePair]

/-- The pass at a line: nothing, or a step at the lines of the two labels. -/
theorem pairedStep_cases {p : Program} {pl pl' : Placement} {i : Nat} (h : pairedStep p pl i = .ok pl') :
    pl' = pl ∨ ∃ t f, pairStep pl i t f = .ok pl' := by
  unfold pairedStep at h
  split at h
  · exact .inl (by simpa using h.symm)
  · split at h
    · exact .inr ⟨_, _, h⟩
    · exact .inl (by simpa using h.symm)
    · exact .inl (by simpa using h.symm)

theorem pairedStep_extends {p : Program} {pl pl' : Placement} {i : Nat} (h : pairedStep p pl i = .ok pl') :
    pl.Extends pl' := by
  rcases pairedStep_cases h with rfl | ⟨t, f, hstep⟩
  · exact .refl _
  · exact pairStep_extends hstep

theorem pairedStep_of_owners {p : Program} (pl : Placement) {i : Nat} {t f : Label} {lt lf : Nat}
    (hc : condAt p i = some (t, f)) (ht : owner p t = some lt) (hf : owner p f = some lf) :
    pairedStep p pl i = pairStep pl i lt lf := by
  simp only [pairedStep, hc, ht, hf]

-- ## The remaining pass (R313)

/-- What the remaining pass can do at a line: nothing, where the line needs no slot, or put it in a free slot of the store. -/
theorem remainingStep_cases {p : Program} {pl pl' : Placement} {i : Nat} (h : remainingStep p pl i = .ok pl') :
    (pl' = pl ∧ (bearing p i = true → ∃ a, pl.slotOf i = some a))
      ∨ ∃ a, pl.slotOf i = none ∧ a < 512 ∧ pl.free a = true ∧ pl' = { pl.place i a with cursor := a + 1 } := by
  unfold remainingStep at h
  split at h
  · next hnew =>
    split at h
    · cases h
    · next a ha =>
      cases h
      obtain ⟨hge, hlt, hfree, -⟩ := leastFrom_some ha
      rw [Bool.and_eq_true, Option.isNone_iff_eq_none] at hnew
      exact .inr ⟨a, hnew.2, by omega, hfree, rfl⟩
  · next hold =>
    cases h
    refine .inl ⟨rfl, fun hb => ?_⟩
    simpa [hb, Option.isNone_iff_eq_none, ← Option.ne_none_iff_exists'] using hold

theorem remainingStep_extends {p : Program} {pl pl' : Placement} {i : Nat} (h : remainingStep p pl i = .ok pl') :
    pl.Extends pl' := by
  rcases remainingStep_cases h with ⟨rfl, -⟩ | ⟨a, hnew, hlt, hfree, rfl⟩
  · exact .refl _
  · exact (Placement.extends_place hnew hfree fun _ => hlt).trans (Placement.extends_cursor _ _)

theorem remainingStep_places {p : Program} {pl pl' : Placement} {i : Nat} (h : remainingStep p pl i = .ok pl')
    (hb : bearing p i = true) : ∃ a, pl'.slotOf i = some a := by
  rcases remainingStep_cases h with ⟨rfl, hplaced⟩ | ⟨a, -, -, -, rfl⟩
  · exact hplaced hb
  · exact ⟨a, pl.slotOf_place_self i a⟩

-- ## The passes over all lines

/-- A pass whose steps extend the placement extends it, and it extends what its step at each line gives. -/
theorem pass_extends {step : Placement → Nat → Except Fatal Placement}
    (hstep : ∀ {pl i pl'}, step pl i = .ok pl' → pl.Extends pl') {is : List Nat} {pl pl' : Placement}
    (h : is.foldlM step pl = .ok pl') :
    pl.Extends pl' ∧ ∀ i ∈ is, ∃ q q', step q i = .ok q' ∧ q'.Extends pl' := by
  induction is generalizing pl with
  | nil =>
    cases h
    exact ⟨.refl _, fun i hi => absurd hi List.not_mem_nil⟩
  | cons i is ih =>
    rw [List.foldlM_cons] at h
    cases hq : step pl i with
    | error e => simp [hq, bind, Except.bind] at h
    | ok q =>
      rw [hq] at h
      obtain ⟨hrest, hmem⟩ := ih h
      refine ⟨(hstep hq).trans hrest, fun j hj => ?_⟩
      rcases List.mem_cons.mp hj with rfl | hj
      · exact ⟨pl, q, hq, hrest⟩
      · exact hmem j hj

/-- A placed program went through the paired-branch pass and then the remaining pass (R310). -/
theorem placeProgram_ok {p : Program} {pl : Placement} (h : placeProgram p = .ok pl) :
    ∃ q, (List.range p.length).foldlM (pairedStep p) (absolutePass p) = .ok q
      ∧ (List.range p.length).foldlM (remainingStep p) q = .ok pl := by
  unfold placeProgram at h
  cases hq : (List.range p.length).foldlM (pairedStep p) (absolutePass p) with
  | error e => simp [hq, bind, Except.bind] at h
  | ok q =>
    rw [hq] at h
    exact ⟨q, rfl, h⟩

theorem placeProgram_sound {p : Program} {pl : Placement} (h : placeProgram p = .ok pl) : pl.Sound := by
  obtain ⟨q, hpaired, hremaining⟩ := placeProgram_ok h
  exact (pass_extends remainingStep_extends hremaining).1.sound
    ((pass_extends pairedStep_extends hpaired).1.sound (absolutePass_sound p))

theorem lt_length_of_bearing {p : Program} {i : Nat} (h : bearing p i = true) : i < p.length := by
  unfold bearing at h
  split at h
  · next hl => exact (List.getElem?_eq_some_iff.mp hl).1
  · cases h

/-- The remaining pass leaves no instruction-bearing line without a slot. -/
theorem placeProgram_places {p : Program} {pl : Placement} (h : placeProgram p = .ok pl) {i : Nat}
    (hb : bearing p i = true) : ∃ a, pl.slotOf i = some a := by
  obtain ⟨q, -, hremaining⟩ := placeProgram_ok h
  obtain ⟨r, r', hstep, hrest⟩ :=
    (pass_extends remainingStep_extends hremaining).2 i (List.mem_range.mpr (lt_length_of_bearing hb))
  obtain ⟨a, ha⟩ := remainingStep_places hstep hb
  exact ⟨a, hrest.slotOf ha⟩

/-- Without a warning, the paired-branch pass pairs the targets of every conditional, and they stay paired. -/
theorem placeProgram_pairs {p : Program} {pl : Placement} (h : placeProgram p = .ok pl) (hw : pl.warnings = [])
    {i : Nat} (hi : i < p.length) {t f : Label} {lt lf : Nat} (hc : condAt p i = some (t, f))
    (ht : owner p t = some lt) (hf : owner p f = some lf) : pl.Paired lt lf := by
  obtain ⟨q, hpaired, hremaining⟩ := placeProgram_ok h
  obtain ⟨r, r', hstep, hrest⟩ := (pass_extends pairedStep_extends hpaired).2 i (List.mem_range.mpr hi)
  have hext : r'.Extends pl := hrest.trans (pass_extends remainingStep_extends hremaining).1
  rw [pairedStep_of_owners r hc ht hf] at hstep
  exact hext.paired (pairStep_paired hstep (hext.warnings hw))

-- ## Conditionals of a program that assembles (R314)

theorem condIf_mem_of_condAt {p : Program} {i : Nat} {t f : Label} (h : condAt p i = some (t, f)) :
    ∃ c, Operation.condIf c t f ∈ opsAt p i := by
  obtain ⟨o, ho, hfound⟩ := List.exists_of_findSome?_eq_some h
  split at hfound
  · next c t' f' =>
    cases hfound
    exact ⟨c, ho⟩
  · cases hfound

/-- A line with an operation is one of the instruction-bearing lines. -/
theorem bearing_of_mem_opsAt {p : Program} {i : Nat} {o : Operation} (h : o ∈ opsAt p i) : bearing p i = true := by
  unfold opsAt at h
  unfold bearing
  split at h
  · next l hl =>
    simp [List.ne_nil_of_mem h]
  · cases h

theorem unboundReferences_eq_nil {p : Program} {pl : Placement} {i : Nat} (h : lineDiagnostics p pl i = []) :
    unboundReferences p i = [] := (List.append_eq_nil_iff.mp (List.append_eq_nil_iff.mp h).1).2

/-- The targets of a conditional of a program that assembles are lines in paired slots. -/
theorem assembled_conditional_paired {p : Program} {pl : Placement} (h : placeProgram p = .ok pl) (hw : pl.warnings = [])
    (hd : ∀ i ∈ bearingLines p, lineDiagnostics p pl i = []) {i : Nat} {t f : Label} (hc : condAt p i = some (t, f)) :
    ∃ lt lf, owner p t = some lt ∧ owner p f = some lf ∧ pl.Paired lt lf := by
  obtain ⟨c, hmem⟩ := condIf_mem_of_condAt hc
  have hb := bearing_of_mem_opsAt hmem
  have hi := lt_length_of_bearing hb
  have hrefs := unboundReferences_eq_nil (hd i (List.mem_filter.mpr ⟨List.mem_range.mpr hi, hb⟩))
  obtain ⟨lt, hlt⟩ := owner_of_reference hrefs hmem (l := t) (by simp [Operation.labels])
  obtain ⟨lf, hlf⟩ := owner_of_reference hrefs hmem (l := f) (by simp [Operation.labels])
  exact ⟨lt, lf, hlt, hlf, placeProgram_pairs h hw hi hc hlt hlf⟩

-- ## The first two pairs (R315)

/-- The first pair of an empty store is 0/256. -/
theorem pairStep_empty (i : Nat) {t f : Nat} (h : t ≠ f) :
    pairStep Placement.empty i t f = .ok (Placement.empty.placePair t f 0) :=
  pairStep_at_cursor i rfl rfl h (show 0 < 256 by decide) rfl rfl

/-- With one pair in the store, the next two unplaced targets get 1/257. -/
theorem pairStep_after_first (i : Nat) {t f t' f' : Nat} (htt : t' ≠ t) (hft : f' ≠ t) (htf : t' ≠ f) (hff : f' ≠ f)
    (h : t ≠ f) : pairStep (Placement.empty.placePair t' f' 0) i t f
      = .ok ((Placement.empty.placePair t' f' 0).placePair t f 1) :=
  pairStep_at_cursor i (Placement.slotOf_placePair_ne _ 0 htt hft) (Placement.slotOf_placePair_ne _ 0 htf hff) h
    (show 1 < 256 by decide) rfl rfl

/-- Two conditionals with four unplaced targets are placed at 0/256 and 1/257 in an empty store. -/
theorem pairStep_twice_from_empty (i j : Nat) {ta fa tb fb : Nat} (h : [ta, fa, tb, fb].Nodup) :
    ∃ p1 p2, pairStep Placement.empty i ta fa = .ok p1 ∧ pairStep p1 j tb fb = .ok p2
      ∧ p2.slotOf fa = some 0 ∧ p2.slotOf ta = some 256 ∧ p2.slotOf fb = some 1 ∧ p2.slotOf tb = some 257 := by
  obtain ⟨⟨ha, htt, htf⟩, ⟨hft, hff⟩, hb⟩ :
      (ta ≠ fa ∧ ta ≠ tb ∧ ta ≠ fb) ∧ (fa ≠ tb ∧ fa ≠ fb) ∧ tb ≠ fb := by simpa using h
  have hsecond := pairStep_after_first j htt hft htf hff hb
  have hkeep := pairStep_extends hsecond
  exact ⟨_, _, pairStep_empty i ha, hsecond, hkeep.slotOf (Placement.slotOf_placePair_false _ 0 ha),
    hkeep.slotOf (Placement.slotOf_placePair_true _ ta fa 0), Placement.slotOf_placePair_false _ 1 hb,
    Placement.slotOf_placePair_true _ tb fb 1⟩

end Sys2Proof.Machine

namespace Sys2Proof

open Sys2Proof.Machine

/-- Settles O41: the three passes keep the placement sound and place every instruction-bearing line; without a warning every
conditional's targets are paired. -/
theorem anEmittedStoreHasPairedAndDistinctAddresses : Obligations.AnEmittedStoreHasPairedAndDistinctAddresses := by
  refine ⟨fun p img h => ?_, fun i j ta fa tb fb hnodup => pairStep_twice_from_empty i j hnodup⟩
  obtain ⟨pl, _, hpl, hw, _, hd, _⟩ := assemble_ok h
  have hsound := placeProgram_sound hpl
  refine ⟨pl, hpl, fun i hb => ?_, fun i t f hc => ?_⟩
  · obtain ⟨a, ha⟩ := placeProgram_places hpl hb
    exact ⟨a, ha, hsound.lt ha, fun j _ hne hj => hne (hsound.inj hj ha)⟩
  · obtain ⟨lt, lf, hlt, hlf, a, ht, hf⟩ := assembled_conditional_paired hpl hw hd hc
    exact ⟨lt, lf, a + 0x100, a, hlt, hlf, ht, hf, rfl⟩

end Sys2Proof
end

section
/-! PROOF. Family other, 10_state.md and 20_memory.md: what every step keeps (R5, R25, R28). -/

namespace Sys2Proof

open Sys2Proof.Machine Sys2Proof.Claims

/-- The invariant of the stores, part by part. -/
theorem storesWellFormed_iff (s : State) : Safety.storesWellFormed s = true
    ↔ Store.wf s.mem = true ∧ Store.below s.params.memBytes s.mem = true ∧ Store.wf s.cs = true
      ∧ Store.below 512 s.cs = true := by
  simp only [Safety.storesWellFormed, Bool.and_eq_true, and_assoc]

/-- A cycle changes neither the control store nor the parameters, and its one write keeps the memory's form and bound. -/
theorem cycleOf_storesWellFormed (m : Micro) {s : State} (h : Safety.storesWellFormed s = true) :
    Safety.storesWellFormed (cycleOf m s) = true := by
  rw [storesWellFormed_iff] at h ⊢
  obtain ⟨hmem, hbelow, hcs, hslots⟩ := h
  rw [cycleOf_cs, cycleOf_params]
  exact ⟨cycleOf_mem_wf m s hmem, cycleOf_mem_below m s hbelow, hcs, hslots⟩

/-- Settles O3, by what a step can do: only a cycle touches a store. -/
theorem everyStepKeepsTheStoresWellFormed : Obligations.EveryStepKeepsTheStoresWellFormed := by
  intro s t h hstep
  rcases step_next_cases hstep with ⟨-, rfl⟩ | ⟨-, -, rfl⟩ | ⟨-, m, -, rfl⟩
  · exact h
  · exact h
  · exact cycleOf_storesWellFormed m h

/-- Settles O4, by what a step can do. -/
theorem noStepChangesTheControlStoreOrTheParameters : Obligations.NoStepChangesTheControlStoreOrTheParameters := by
  intro s t hstep
  rcases step_next_cases hstep with ⟨-, rfl⟩ | ⟨-, -, rfl⟩ | ⟨-, m, -, rfl⟩
  · exact ⟨rfl, rfl⟩
  · exact ⟨rfl, rfl⟩
  · exact ⟨cycleOf_cs m s, cycleOf_params m s⟩

end Sys2Proof
end

section
/-! PROOF. Family other, 30_encoding.md: decoder and encoder are inverse on every field (R81, R82, R90), and the rows of
one word mean the same. -/

namespace Sys2Proof

open Sys2Proof.Machine Sys2Proof.Claims

-- ## Decoding an encoding (R90)

/-- The reserved rows hold the six reserved values. -/
theorem control_reserved_range {i : Instr} {b : BitVec 4} (h : i.control = .reserved b) : 9 ≤ b.toNat ∧ b.toNat ≤ 14 := by
  cases i <;> cases h <;> decide

/-- The bits of a word are read back as that word, when a reserved value is one and an undefined ALU code is one. -/
theorem controlOf_encodeControl {c : Control} (hres : ∀ b, c = .reserved b → 9 ≤ b.toNat ∧ b.toNat ≤ 14)
    (halu : ∀ m, c = .micro m → m.alu.wellFormed = true) : controlOf (encodeControl c) = c := by
  cases c with
  | halt => decide
  | micro m => exact controlOf_encodeMicro m (halu m rfl)
  | reserved b =>
    have key : ∀ b : BitVec 4, 9 ≤ b.toNat ∧ b.toNat ≤ 14 → controlOf (encodeControl (.reserved b)) = .reserved b := by
      decide
    exact key b (hres b rfl)

theorem alu_wellFormed_of_micro {i : Instr} {m : Micro} (h : i.aluWellFormed = true) (hm : i.control = .micro m) :
    m.alu.wellFormed = true := by
  simpa [Instr.aluWellFormed, hm] using h

/-- Settles O8: the bits give the word's fields back, and a well-formed instruction is the row of its own fields. -/
theorem decodeOfEncodeIsTheInstruction : Obligations.DecodeOfEncodeIsTheInstruction := by
  intro i h
  obtain ⟨halu, hrow⟩ := Bool.and_eq_true_iff.mp h
  have hfields : controlOf (encode i) = i.control :=
    controlOf_encodeControl (fun _ hb => control_reserved_range hb) (fun _ hm => alu_wellFormed_of_micro halu hm)
  rw [decode, hfields]
  exact of_decide_eq_true hrow

-- ## Encoding a decoding (R82)

/-- Every decoded instruction is well-formed: it is the row of its word's fields. -/
theorem decode_wellFormed (w : ControlBits) : (decode w).wellFormed = true := by
  have hcontrol := decode_control w
  have hrow : (decode w).rowWellFormed = true := decide_eq_true (by rw [hcontrol, decode])
  have halu : (decode w).aluWellFormed = true := by
    rw [Instr.aluWellFormed, hcontrol]
    rcases controlOf_cases w with ⟨-, h⟩ | ⟨-, -, h⟩ | ⟨-, b, -, h⟩ <;> rw [h]
    exact microOf_alu_wellFormed b w
  exact Bool.and_eq_true_iff.mpr ⟨halu, hrow⟩

/-- The C field is the sum of its nine bits (R85). -/
theorem dest_code_of_bits (w : ControlBits) : (Dest.ofFn fun r => getBit w (7 + r.cBit)).code = field w 7 9 := by
  simp only [Dest.code, Dest.ofFn, Reg.cBit, getBit_toNat]
  rw [field_split w 7 1 8, field_split w 8 1 7, field_split w 9 1 6, field_split w 10 1 5, field_split w 11 1 4,
    field_split w 12 1 3, field_split w 13 1 2, field_split w 14 1 1]
  ring

/-- The low 36 bits are the fields of R81, side by side. -/
theorem low36_eq_fields (w : ControlBits) : w.toNat % 2 ^ 36
    = field w 0 4 + 2 ^ 4 * field w 4 1 + 2 ^ 5 * field w 5 1 + 2 ^ 6 * field w 6 1 + 2 ^ 7 * field w 7 9
      + 2 ^ 16 * field w 16 6 + 2 ^ 22 * field w 22 1 + 2 ^ 23 * field w 23 1 + 2 ^ 24 * field w 24 1
      + 2 ^ 25 * field w 25 1 + 2 ^ 26 * field w 26 1 + 2 ^ 27 * field w 27 9 := by
  have hall : w.toNat % 2 ^ 36 = field w 0 36 := by rw [field, Nat.pow_zero, Nat.div_one]
  rw [hall, field_split w 0 4 32, field_split w 4 1 31, field_split w 5 1 30, field_split w 6 1 29, field_split w 7 9 20,
    field_split w 16 6 14, field_split w 22 1 13, field_split w 23 1 12, field_split w 24 1 11, field_split w 25 1 10,
    field_split w 26 1 9]
  ring

/-- Encoding the fields of a horizontal word gives its low 36 bits. -/
theorem encodeMicro_microOf_toNat {w : ControlBits} {b : BSource} (hb : b.code = field w 0 4) :
    (encodeMicro (microOf b w)).toNat = w.toNat % 2 ^ 36 := by
  have halu : (aluFnOf (field w 16 6)).code = field w 16 6 := (aluFnOf_spec (field_lt w 16 6)).1
  have haddr : (BitVec.ofNat 9 (field w 27 9)).toNat = field w 27 9 := Nat.mod_eq_of_lt (field_lt w 27 9)
  rw [encodeMicro_toNat, low36_eq_fields]
  simp only [microOf, hb, halu, haddr, dest_code_of_bits, getBit_toNat]

theorem encode_decode (w : ControlBits) : encode (decode w) = encodeControl (controlOf w) := by
  rw [encode, decode_control]

/-- Settles O9, by the three cases of a word's B field. -/
theorem encodeOfDecodeKeepsEveryFieldBit : Obligations.EncodeOfDecodeKeepsEveryFieldBit := by
  intro w
  refine ⟨decode_wellFormed w, ?_⟩
  rw [encode_decode]
  rcases controlOf_cases w with ⟨h15, h⟩ | ⟨h9, h14, h⟩ | ⟨hlt, b, hb, h⟩ <;> rw [h]
  · exact ⟨fun _ => by omega, fun _ => h15.symm⟩
  · refine ⟨fun _ => by omega, fun _ => ?_⟩
    rw [encodeControl, BitVec.toNat_ofNat, BitVec.toNat_ofNat]
    omega
  · exact ⟨fun _ => encodeMicro_microOf_toNat hb, fun _ => by omega⟩

-- ## The rows of one word (R90)

theorem setFetch_self {m : Micro} (h : m.fetch = true) : m.setFetch = m := by rw [Micro.setFetch, ← h]

theorem setRd_self {m : Micro} (h : m.rd = true) : m.setRd = m := by rw [Micro.setRd, ← h]

theorem setWr_self {m : Micro} (h : m.wr = true) : m.setWr = m := by rw [Micro.setWr, ← h]

/-- Every row of a horizontal word has the word's own fields. -/
theorem control_of_mem_micro_readings {w : ControlBits} {m : Micro} (hw : controlOf w = .micro m)
    (halu : m.alu.wellFormed = true) {i : Instr} (h : i ∈ readings w) : i.control = .micro m := by
  simp only [readings, hw, List.mem_append, List.mem_cons, List.not_mem_nil, or_false, List.mem_ite_nil_right,
    Bool.and_eq_true] at h
  rcases h with ((((((rfl | ⟨hf, rfl⟩) | ⟨hr, rfl⟩) | ⟨hwr, rfl⟩) | ⟨⟨hr, hf⟩, rfl⟩) | ⟨⟨hr, hwr⟩, rfl⟩) | hdest)
    | rfl | rfl | rfl | rfl
  · exact bRow_control m
  · exact congrArg Control.micro (setFetch_self hf)
  · exact congrArg Control.micro (setRd_self hr)
  · exact congrArg Control.micro (setWr_self hwr)
  · exact congrArg Control.micro (by rw [setRd_self hr, setFetch_self hf])
  · exact congrArg Control.micro (by rw [setRd_self hr, setWr_self hwr])
  · split at hdest
    · next hempty =>
      rw [List.mem_singleton.mp hdest]
      exact congrArg Control.micro (clearDest_of_empty m hempty)
    · obtain ⟨r, hr, rfl⟩ := List.mem_map.mp hdest
      exact destRow_control m r (List.mem_filter.mp hr).2
  · exact aluRow_control m halu
  · exact shiftRow_control m
  · exact nextRow_control m
  · rfl

/-- Every row a word belongs to has the word's own fields; a halt or reserved word has its one row. -/
theorem control_of_mem_readings {w : ControlBits} {i : Instr} (h : i ∈ readings w) : i.control = controlOf w := by
  have hdecode := decode_control w
  rcases controlOf_cases w with ⟨-, hw⟩ | ⟨-, -, hw⟩ | ⟨-, b, -, hw⟩
  · simp only [readings, hw] at h
    rw [List.mem_singleton.mp h, hw]
    rfl
  · simp only [readings, hw] at h
    rw [decode, hw, rowOf] at hdecode
    rw [List.mem_singleton.mp h, hdecode, hw]
  · rw [hw]
    exact control_of_mem_micro_readings hw (microOf_alu_wellFormed b w) h

/-- Settles O10: a word's rows have one control, which is all that the encoder and `exec` look at. -/
theorem everyReadingOfAWordMeansTheSame : Obligations.EveryReadingOfAWordMeansTheSame := by
  intro w i h
  have hcontrol : i.control = (decode w).control := (control_of_mem_readings h).trans (decode_control w).symm
  refine ⟨by rw [encode, encode, hcontrol], fun s => ?_⟩
  rw [exec_eq_runControl, exec_eq_runControl, hcontrol]

-- ## Bits that are not read, and stored words (R82, R93)

/-- A field below bit 36 is a field of the low 36 bits. -/
theorem field_congr_low36 {w w' : ControlBits} (h : w.toNat % 2 ^ 36 = w'.toNat % 2 ^ 36) {o n : Nat} (hon : o + n ≤ 36) :
    field w o n = field w' o n := by
  have low : ∀ v : ControlBits, field v o n = v.toNat % 2 ^ 36 / 2 ^ o % 2 ^ n := by
    intro v
    refine Nat.eq_of_testBit_eq fun k => ?_
    rw [field]
    simp only [Nat.testBit_mod_two_pow, Nat.testBit_div_two_pow]
    by_cases hk : k < n
    · have hlt : k + o < 36 := by omega
      simp [hlt]
    · simp [hk]
  rw [low, low, h]

theorem getBit_congr_low36 {w w' : ControlBits} (h : w.toNat % 2 ^ 36 = w'.toNat % 2 ^ 36) {p : Nat} (hp : p < 36) :
    getBit w p = getBit w' p := by
  rw [getBit_eq_field, getBit_eq_field, field_congr_low36 h (by omega)]

theorem microOf_congr_low36 (b : BSource) {w w' : ControlBits} (h : w.toNat % 2 ^ 36 = w'.toNat % 2 ^ 36) :
    microOf b w = microOf b w' := by
  have hc : ∀ r : Reg, getBit w (7 + r.cBit) = getBit w' (7 + r.cBit) :=
    fun r => getBit_congr_low36 h (by cases r <;> decide)
  simp only [microOf, hc, field_congr_low36 h (show 16 + 6 ≤ 36 by decide), field_congr_low36 h (show 27 + 9 ≤ 36 by decide),
    getBit_congr_low36 h (show 4 < 36 by decide), getBit_congr_low36 h (show 5 < 36 by decide),
    getBit_congr_low36 h (show 6 < 36 by decide), getBit_congr_low36 h (show 22 < 36 by decide),
    getBit_congr_low36 h (show 23 < 36 by decide), getBit_congr_low36 h (show 24 < 36 by decide),
    getBit_congr_low36 h (show 25 < 36 by decide), getBit_congr_low36 h (show 26 < 36 by decide)]

/-- The decoder reads the low 36 bits only (R82). -/
theorem decode_congr_low36 {w w' : ControlBits} (h : w.toNat % 2 ^ 36 = w'.toNat % 2 ^ 36) : decode w = decode w' := by
  simp only [decode, controlOf, field_congr_low36 h (show 0 + 4 ≤ 36 by decide), microOf_congr_low36 _ h]

/-- Settles O12: no field the decoder reads has a bit above 35, and the row of the four bits is the cycle of its operand. -/
theorem unusedBitsHaveNoEffect : Obligations.UnusedBitsHaveNoEffect := by
  refine ⟨fun w w' h => decode_congr_low36 h, fun m s => ⟨?_, field_encodeMicro_unused m⟩⟩
  exact ⟨cycleOf m s, exec_of_micro rfl s, cycleOf_reg m s, cycleOf_pendRead m s, cycleOf_pendFetch m s⟩

/-- Bit p of a word is bit p mod 8 of byte p div 8 (R93). -/
theorem getLsbD_bytesOf (w : ControlBits) {p : Nat} (hp : p < 40) :
    ((bytesOf w).getD (p / 8) 0#8).getLsbD (p % 8) = getBit w p := by
  have hbyte : (bytesOf w).getD (p / 8) 0#8 = BitVec.ofNat 8 (field w (8 * (p / 8)) 8) := by
    have hj : p / 8 < 5 := by omega
    generalize p / 8 = j at hj
    interval_cases j <;> rfl
  have hlt : p % 8 < 8 := Nat.mod_lt p (by decide)
  rw [hbyte, BitVec.getLsbD_ofNat, testBit_field_of_lt w _ hlt, Nat.div_add_mod, decide_eq_true hlt, Bool.true_and]

theorem decodeBytes_of_length_ne {bs : List Byte} (h : bs.length ≠ 5) : decodeBytes bs = .error (.notFiveBytes bs.length) := by
  unfold decodeBytes
  split
  · exact absurd rfl h
  · rfl

theorem decodeBytes_bytesOf (w : ControlBits) : decodeBytes (bytesOf w) = .ok (decode w) :=
  congrArg (fun v => Except.ok (decode v)) (wordOf_fields w)

/-- Settles O38: the five bytes are the word's own, so joining them gives the word that is decoded. -/
theorem bytesAndWordsAreTheSame : Obligations.BytesAndWordsAreTheSame :=
  fun w => ⟨rfl, fun _ hp => getLsbD_bytesOf w hp, decodeBytes_bytesOf w, fun _ h => decodeBytes_of_length_ne h⟩

/-- Settles O11: the decoder run on the eight words. -/
theorem sampleWordsDecodeToTheirFields : Obligations.SampleWordsDecodeToTheirFields := by
  unfold Obligations.SampleWordsDecodeToTheirFields
  decide

end Sys2Proof
end

section
/-! PROOF. Family other, 46_microassembler.md section 4 and 47_placement_image.md section 2: the disassembly is one line
(R281 to R283), an image's text loads back (R317, R318), and what does not load (R319). -/

namespace Sys2Proof

open Sys2Proof.Machine Sys2Proof.Claims

-- ## The disassembly column holds no newline (R281, R282)

/-- Settles O45: the disassembler run on the five words. -/
theorem theSpecsExamplesDisassembleAsWritten : Obligations.TheSpecsExamplesDisassembleAsWritten := by
  unfold Obligations.TheSpecsExamplesDisassembleAsWritten
  decide

theorem newline_not_mem_regName (r : Reg) : '\n' ∉ regName r := by cases r <;> decide

theorem newline_not_mem_sourceName (b : BSource) : '\n' ∉ sourceName b := by cases b <;> decide

theorem newline_not_mem_hexText (k n : Nat) : '\n' ∉ hexText k n := fun h => absurd (hexText_mem h) (by decide)

theorem newline_ne_hexDigit (n : Nat) : '\n' ≠ hexDigit n := fun h => absurd (hexDigit_mem n) (h ▸ by decide)

theorem newline_not_mem_decimalText (n : Nat) : '\n' ∉ decimalText n := by
  unfold decimalText
  split <;> simp [newline_ne_hexDigit]

theorem newline_not_mem_bText (b : Nat) : '\n' ∉ bText b := by
  unfold bText
  split
  · exact newline_not_mem_sourceName _
  · simp [txt, newline_not_mem_decimalText]

theorem newline_not_mem_exprText (f : AluFn) {b : Text} (hb : '\n' ∉ b) : '\n' ∉ exprText f b := by
  cases f <;> simp [exprText, txt, hb, newline_not_mem_hexText]

theorem newline_not_mem_shiftedText {e : Text} (he : '\n' ∉ e) (sra1 sll8 : Bool) : '\n' ∉ shiftedText e sra1 sll8 := by
  cases sra1 <;> cases sll8 <;> simp [shiftedText, txt, he]

theorem newline_not_mem_tagText (set : Bool) {t : String} (ht : '\n' ∉ txt t) : '\n' ∉ tagText set t := by
  cases set <;> simp [tagText, ht]

theorem newline_not_mem_branchText (jamz jamn jmpc : Bool) (a : Nat) : '\n' ∉ branchText jamz jamn jmpc a := by
  have haddr := newline_not_mem_hexText 3
  cases jamz <;> cases jamn <;> cases jmpc <;> simp [branchText, ifText, addrText, txt, haddr]
  split <;> simp [haddr]

theorem newline_not_mem_disassemble (w : ControlBits) : '\n' ∉ disassemble w := by
  have hshown : '\n' ∉ shiftedText (exprText (aluFnOf (field w 16 6)) (bText (field w 0 4))) (getBit w 22) (getBit w 23) :=
    newline_not_mem_shiftedText (newline_not_mem_exprText _ (newline_not_mem_bText _)) _ _
  have hdests : '\n' ∉ (cDests.filter fun r => getBit w (7 + r.cBit)).flatMap (fun r => regName r ++ txt " = ") := by
    simp [txt, newline_not_mem_regName]
  unfold disassemble
  dsimp only
  split
  · decide
  · simp only [List.mem_append, not_or]
    refine ⟨⟨⟨⟨⟨hdests, ?_⟩, newline_not_mem_tagText _ (by decide)⟩, newline_not_mem_tagText _ (by decide)⟩,
      newline_not_mem_tagText _ (by decide)⟩, newline_not_mem_branchText _ _ _ _⟩
    split
    · simp [txt, hshown]
    · simp

-- ## Lines and columns

/-- Lines written one after the other are read back as those lines. -/
theorem linesFrom_flatMap_lines {α : Type} (f : α → Text) (l : List α) (h : ∀ a ∈ l, '\n' ∉ f a) :
    linesFrom [] (l.flatMap fun a => f a ++ ['\n']) = l.map f := by
  induction l with
  | nil => rfl
  | cons a l ih =>
    rw [List.flatMap_cons, List.append_assoc, List.singleton_append, linesFrom_line _ _ _ (h a List.mem_cons_self),
      ih fun b hb => h b (List.mem_cons_of_mem a hb)]
    rfl

/-- The word field of a line is the column between the first spaces and the next one. -/
theorem wordField_columns {addr word : Text} (rest : Text) (haddr : ' ' ∉ addr) (hword : ' ' ∉ word) (hne : word ≠ []) :
    wordField (addr ++ ' ' :: ' ' :: (word ++ ' ' :: rest)) = word := by
  have nonspace : ∀ {t : Text}, ' ' ∉ t → ∀ c ∈ t, decide (c ≠ ' ') = true :=
    fun h c hc => decide_eq_true fun he => h (he ▸ hc)
  obtain ⟨c, cs, rfl⟩ := List.exists_cons_of_ne_nil hne
  have hc : c ≠ ' ' := fun he => hword (he ▸ List.mem_cons_self)
  have hcolumn : ((addr ++ ' ' :: ' ' :: (c :: cs ++ ' ' :: rest)).dropWhile fun c => decide (c ≠ ' ')).dropWhile
      (fun c => decide (c = ' ')) = c :: cs ++ ' ' :: rest := by
    rw [List.dropWhile_append_of_pos (nonspace haddr)]
    simp [hc]
  rw [wordField, hcolumn, List.takeWhile_append_of_pos (nonspace hword)]
  simp

/-- The line of a slot without its newline. -/
def slotLine (order : HexOrder) (img : ControlImage) (j : Nat) : Text :=
  hexText 3 j ++ txt ":  " ++ encodeText order (Store.read img.store j) ++ txt "  " ++ disassemble (Store.read img.store j)

theorem encodeText_eq_hexText (order : HexOrder) (w : ControlBits) : ∃ n, encodeText order w = hexText 10 n := by
  cases order
  · exact ⟨_, rfl⟩
  · exact ⟨_, rfl⟩

theorem space_not_mem_hexText (k n : Nat) : ' ' ∉ hexText k n := fun h => absurd (hexText_mem h) (by decide)

theorem newline_not_mem_slotLine (order : HexOrder) (img : ControlImage) (j : Nat) : '\n' ∉ slotLine order img j := by
  obtain ⟨n, hn⟩ := encodeText_eq_hexText order (Store.read img.store j)
  simp [slotLine, txt, hn, newline_not_mem_hexText, newline_not_mem_disassemble]

/-- The word field of a slot's line is the slot's word as text, whatever the disassembly is. -/
theorem wordField_slotLine (order : HexOrder) (img : ControlImage) (j : Nat) :
    wordField (slotLine order img j) = encodeText order (Store.read img.store j) := by
  obtain ⟨n, hn⟩ := encodeText_eq_hexText order (Store.read img.store j)
  have hshape : slotLine order img j
      = (hexText 3 j ++ [':']) ++ ' ' :: ' ' :: (hexText 10 n ++ ' ' :: (' ' :: disassemble (Store.read img.store j))) := by
    simp [slotLine, txt, hn]
  rw [hshape, hn]
  refine wordField_columns _ (by simp [space_not_mem_hexText]) (space_not_mem_hexText 10 n) fun h => ?_
  simpa [h] using hexText_length 10 n

/-- The lines of an emitted image: the entry line and one line a slot (R317). -/
theorem linesOf_emitImage (order : HexOrder) (img : ControlImage) : linesOf (emitImage order img)
    = (txt "entry: " ++ hexText 3 img.entry.toNat) :: (List.range 512).map (slotLine order img) := by
  have hentry : '\n' ∉ txt "entry: " ++ hexText 3 img.entry.toNat := by simp [txt, newline_not_mem_hexText]
  have htext : emitImage order img = (txt "entry: " ++ hexText 3 img.entry.toNat)
      ++ '\n' :: (List.range 512).flatMap fun j => slotLine order img j ++ ['\n'] := by
    rw [emitImage, imageText, List.append_assoc, List.singleton_append]
    rfl
  rw [htext, linesOf, linesFrom_line _ _ _ hentry, linesFrom_flatMap_lines _ _ fun j _ => newline_not_mem_slotLine order img j]
  rfl

-- ## The entry line (R317, R319)

theorem entryPrefix_isPrefixOf (digits : Text) : (txt "entry: ").isPrefixOf (txt "entry: " ++ digits) = true :=
  List.isPrefixOf_iff_prefix.mpr (List.prefix_append _ _)

theorem drop_entryPrefix (digits : Text) : (txt "entry: " ++ digits).drop 7 = digits := List.drop_left' (by decide)

/-- An entry that is a number is decided by the number's range (decision D14). -/
theorem parseEntry_of_value {digits : Text} {v : Nat} (hne : digits ≠ []) (hv : parseHex digits = some v) :
    parseEntry (txt "entry: " ++ digits) = if v < 512 then .ok (BitVec.ofNat 9 v) else .error (.entryOutOfRange v) := by
  simp only [parseEntry, entryPrefix_isPrefixOf, drop_entryPrefix, if_true, hne, if_false, hv]

theorem parseEntry_of_no_value {digits : Text} (h : digits = [] ∨ parseHex digits = none) :
    parseEntry (txt "entry: " ++ digits) = .error .badEntry := by
  simp only [parseEntry, entryPrefix_isPrefixOf, drop_entryPrefix, if_true]
  rcases h with hnil | hnone
  · rw [if_pos hnil]
  · rw [hnone, ite_self]

theorem hexText_ne_nil {k : Nat} (hk : k ≠ 0) (n : Nat) : hexText k n ≠ [] := by
  rwa [ne_eq, ← List.length_eq_zero_iff, hexText_length]

-- ## The word lines (R318)

/-- What loading n words from a slot on leaves: the words of the lines in their slots, the others as they were. -/
theorem loadWords_read {order : HexOrder} {n slot : Nat} {ls : List Text} {cs cs' : ControlStore}
    (h : loadWords order slot n ls cs = .ok cs') (hw : Store.wf cs = true) :
    (∀ j line, j < n → ls[j]? = some line → decodeText order (wordField line) = some (Store.read cs' (slot + j)))
      ∧ ∀ a, a < slot ∨ slot + n ≤ a → Store.read cs' a = Store.read cs a := by
  induction n generalizing slot ls cs with
  | zero =>
    cases h
    exact ⟨fun _ _ hj => absurd hj (Nat.not_lt_zero _), fun _ _ => rfl⟩
  | succ n ih =>
    cases ls with
    | nil => cases h
    | cons l ls =>
      simp only [loadWords] at h
      split at h
      · cases h
      · next w hword =>
        obtain ⟨hlines, hrest⟩ := ih h (Store.write_wf slot w hw)
        refine ⟨fun j line hj hline => ?_, fun a ha => ?_⟩
        · cases j with
          | zero =>
            cases hline
            rw [hword, Nat.add_zero, hrest slot (.inl (Nat.lt_succ_self _)), Store.read_write slot w hw, if_pos rfl]
          | succ j =>
            rw [Nat.add_comm j 1, ← Nat.add_assoc]
            exact hlines j line (by omega) hline
        · rw [hrest a (by omega), Store.read_write slot w hw, if_neg (by omega)]

/-- The words load exactly where every slot has a line with a word field that is one. -/
theorem loadWords_ok_iff {order : HexOrder} {n slot : Nat} {ls : List Text} {cs : ControlStore} :
    (∃ cs', loadWords order slot n ls cs = .ok cs')
      ↔ ∀ j, j < n → ∃ line w, ls[j]? = some line ∧ decodeText order (wordField line) = some w := by
  induction n generalizing slot ls cs with
  | zero => exact ⟨fun _ _ hj => absurd hj (Nat.not_lt_zero _), fun _ => ⟨cs, rfl⟩⟩
  | succ n ih =>
    cases ls with
    | nil =>
      refine ⟨fun ⟨_, h⟩ => (nomatch h), fun h => ?_⟩
      obtain ⟨_, _, h0, -⟩ := h 0 (Nat.succ_pos n)
      cases h0
    | cons l ls =>
      cases hword : decodeText order (wordField l) with
      | none =>
        refine ⟨fun ⟨_, h⟩ => absurd h (by simp [loadWords, hword]), fun h => ?_⟩
        obtain ⟨line, w, h0, hw⟩ := h 0 (Nat.succ_pos n)
        cases h0
        simp [hword] at hw
      | some w =>
        simp only [loadWords, hword, ih]
        refine ⟨fun h j hj => ?_, fun h j hj => h (j + 1) (by omega)⟩
        cases j with
        | zero => exact ⟨l, w, rfl, hword⟩
        | succ j => exact h j (by omega)

/-- A text constructs a machine exactly from an entry line with a slot's number and 512 lines with words (R318, R430). -/
theorem constructFromText_ok {p : Params} {t : Text} {g : Regs} {b : Byte} {mem : Memory} {s : State} :
    constructFromText p t g b mem = .ok s ↔ ∃ first rest entry cs, linesOf t = first :: rest ∧ parseEntry first = .ok entry
      ∧ loadWords p.hexOrder 0 512 rest [] = .ok cs ∧ s = State.construct p { entry := entry, store := cs } g b mem := by
  unfold constructFromText loadImage loadSlots
  cases linesOf t with
  | nil => simp
  | cons first rest =>
    cases hentry : parseEntry first with
    | error e => simp [hentry]
    | ok entry =>
      cases hwords : loadWords p.hexOrder 0 512 rest [] with
      | error e => simp [hentry, hwords]
      | ok cs => simp [hentry, hwords, eq_comm]

theorem constructFromText_error_of_parseEntry {p : Params} {t : Text} {first : Text} {rest : List Text} {e : LoadError}
    (hlines : linesOf t = first :: rest) (h : parseEntry first = .error e) (g : Regs) (b : Byte) (mem : Memory) :
    constructFromText p t g b mem = .error e := by
  simp only [constructFromText, loadImage, loadSlots, hlines, h]

/-- A text with a slot that has no word constructs no machine (R319). -/
theorem constructFromText_error_of_word {p : Params} {t : Text} {g : Regs} {b : Byte} {mem : Memory} {j : Nat} (hj : j < 512)
    (h : ∀ line w, (linesOf t)[j + 1]? = some line → decodeText p.hexOrder (wordField line) ≠ some w) :
    ∃ e, constructFromText p t g b mem = .error e := by
  cases hc : constructFromText p t g b mem with
  | error e => exact ⟨e, rfl⟩
  | ok s =>
    obtain ⟨first, rest, entry, cs, hlines, -, hwords, -⟩ := constructFromText_ok.mp hc
    obtain ⟨line, w, hline, hw⟩ := loadWords_ok_iff.mp ⟨cs, hwords⟩ j hj
    exact absurd hw (h line w (by rw [hlines]; exact hline))

-- ## An emitted image loads back

theorem read_of_below {hi a : Nat} {w : Nat} {st : List (Nat × BitVec w)} (h : Store.below hi st = true) (ha : hi ≤ a) :
    Store.read st a = 0#w := by
  induction st with
  | nil => rfl
  | cons c st ih =>
    obtain ⟨k, v⟩ := c
    obtain ⟨hk, hst⟩ := (Store.below_cons ..).mp h
    rw [Store.read, if_neg (by omega), ih hst]

/-- The lines of an image's slots load its store. -/
theorem loadWords_slotLines (order : HexOrder) {img : ControlImage} (hw : Store.wf img.store = true)
    (hb : Store.below 512 img.store = true) :
    loadWords order 0 512 ((List.range 512).map (slotLine order img)) [] = .ok img.store := by
  have hline : ∀ j, j < 512 → ((List.range 512).map (slotLine order img))[j]? = some (slotLine order img j) := by
    intro j hj
    simp [hj]
  have hword : ∀ j, decodeText order (wordField (slotLine order img j)) = some (Store.read img.store j) := by
    intro j
    rw [wordField_slotLine, decodeText_encodeText]
  obtain ⟨cs, hcs⟩ := (loadWords_ok_iff (slot := 0) (cs := [])).mpr fun j hj => ⟨_, _, hline j hj, hword j⟩
  obtain ⟨hread, hrest⟩ := loadWords_read hcs rfl
  have hsame : ∀ a, Store.read cs a = Store.read img.store a := by
    intro a
    by_cases ha : a < 512
    · have := hread a _ ha (hline a ha)
      rw [hword, Nat.zero_add, Option.some.injEq] at this
      exact this.symm
    · rw [hrest a (.inr (by omega)), read_of_below hb (by omega), Store.read]
  rw [hcs, Store.eq_of_read_eq (loadWords_wf order hcs (Nat.le_refl _) rfl rfl).1 hw hsame]

/-- Settles O43: the emitted lines are read back one by one; the stores read the same and are canonical, so they are equal. -/
theorem anEmittedImageLoadsBack : Obligations.AnEmittedImageLoadsBack := by
  intro order img hw hb
  have hentry : parseEntry (txt "entry: " ++ hexText 3 img.entry.toNat) = .ok img.entry := by
    have hlt : img.entry.toNat < 512 := img.entry.isLt
    rw [parseEntry_of_value (hexText_ne_nil (by decide) _) (parseHex_hexText (by omega)), if_pos hlt, BitVec.ofNat_toNat,
      BitVec.setWidth_eq]
  simp only [loadImage, loadSlots, linesOf_emitImage, hentry, loadWords_slotLines order hw hb]

-- ## Hexadecimal numbers of either case (R94, R319)

/-- A digit's value is its place among the digits, in either case. -/
theorem hexValue_of_mem {c : Char} (h : c ∈ txt "0123456789abcdefABCDEF") :
    hexValue c = some ((txt "0123456789abcdef").idxOf c.toLower) := by
  have key : (txt "0123456789abcdefABCDEF").all
      fun c => decide (hexValue c = some ((txt "0123456789abcdef").idxOf c.toLower)) := by decide
  exact of_decide_eq_true (List.all_eq_true.mp key c h)

/-- Every character of a range of codes is in a list that holds those characters. -/
theorem mem_of_between {lo hi : Char} {l : Text} (hl : (List.range (hi.toNat + 1)).all fun n => decide (n < lo.toNat ∨ Char.ofNat n ∈ l))
    {c : Char} (h : lo ≤ c ∧ c ≤ hi) : c ∈ l := by
  have hlo : lo.toNat ≤ c.toNat := h.1
  have hhi : c.toNat ≤ hi.toNat := h.2
  have hc := of_decide_eq_true (List.all_eq_true.mp hl c.toNat (List.mem_range.mpr (by omega)))
  rw [Char.ofNat_toNat] at hc
  exact hc.resolve_left (by omega)

/-- Only a digit has a value. -/
theorem hexValue_eq_none {c : Char} (h : c ∉ txt "0123456789abcdefABCDEF") : hexValue c = none := by
  have hdecimal : ¬ ('0' ≤ c ∧ c ≤ '9') := fun hc => h (mem_of_between (by decide) hc)
  have hlower : ¬ ('a' ≤ c ∧ c ≤ 'f') := fun hc => h (mem_of_between (by decide) hc)
  have hupper : ¬ ('A' ≤ c ∧ c ≤ 'F') := fun hc => h (mem_of_between (by decide) hc)
  rw [hexValue, if_neg hdecimal, if_neg hlower, if_neg hupper]

/-- One digit read after a number; the fold of `parseHex`. -/
def readDigit (acc : Option Nat) (c : Char) : Option Nat := acc.bind fun n => (hexValue c).map fun d => 16 * n + d

theorem parseHex_eq_foldl (t : Text) : parseHex t = t.foldl readDigit (some 0) := rfl

theorem readDigit_of_mem {c : Char} (h : c ∈ txt "0123456789abcdefABCDEF") (n : Nat) :
    readDigit (some n) c = some (16 * n + (txt "0123456789abcdef").idxOf c.toLower) := by
  rw [readDigit, hexValue_of_mem h, Option.bind_some, Option.map_some]

theorem readDigit_eq_none {c : Char} (h : c ∉ txt "0123456789abcdefABCDEF") (acc : Option Nat) : readDigit acc c = none := by
  simp [readDigit, hexValue_eq_none h]

/-- The digits of a text, read after those already read, spell the number that `hexNumber` goes on to. -/
theorem foldl_readDigit_of_digits {t : Text} (h : ∀ c ∈ t, c ∈ txt "0123456789abcdefABCDEF") (a : Nat) :
    t.foldl readDigit (some a)
      = some (t.foldl (fun n c => 16 * n + (txt "0123456789abcdef").idxOf c.toLower) a) := by
  induction t generalizing a with
  | nil => rfl
  | cons c t ih =>
    rw [List.foldl_cons, List.foldl_cons, readDigit_of_mem (h c List.mem_cons_self),
      ih fun d hd => h d (List.mem_cons_of_mem c hd)]

theorem foldl_readDigit_none (t : Text) :
    t.foldl readDigit none = none := by
  induction t with
  | nil => rfl
  | cons c t ih => exact ih

theorem foldl_readDigit_of_bad {t : Text} {c : Char} (hc : c ∈ t) (hbad : c ∉ txt "0123456789abcdefABCDEF") (acc : Option Nat) :
    t.foldl readDigit acc = none := by
  obtain ⟨before, after, rfl⟩ := List.append_of_mem hc
  rw [List.foldl_append, List.foldl_cons, readDigit_eq_none hbad, foldl_readDigit_none]

theorem parseHex_of_hexNumber {t : Text} (h : ¬ notAHexNumber t) : t ≠ [] ∧ parseHex t = some (hexNumber t) := by
  simp only [notAHexNumber, not_or, not_exists, not_and, not_not] at h
  exact ⟨h.1, (parseHex_eq_foldl t).trans (foldl_readDigit_of_digits h.2 0)⟩

theorem parseHex_of_notAHexNumber {t : Text} (h : notAHexNumber t) : t = [] ∨ parseHex t = none :=
  h.imp id fun ⟨_, hc, hbad⟩ => (parseHex_eq_foldl t).trans (foldl_readDigit_of_bad hc hbad _)

/-- A word field is a word exactly if it is a number of ten digits (R94). -/
theorem decodeText_isSome_iff {order : HexOrder} {t : Text} :
    (∃ w, decodeText order t = some w) ↔ t.length = 10 ∧ ¬ notAHexNumber t := by
  unfold decodeText
  by_cases hlen : t.length = 10
  · rw [if_pos hlen]
    by_cases h : notAHexNumber t
    · have hnone : parseHex t = none := (parseHex_of_notAHexNumber h).resolve_left fun he => by simp [he] at hlen
      simp [hnone, h]
    · simp [(parseHex_of_hexNumber h).2, hlen, h]
  · simp [hlen]

-- ## Texts that construct no machine (R319)

theorem parseEntry_of_notAHexNumber {digits : Text} (h : notAHexNumber digits) :
    parseEntry (txt "entry: " ++ digits) = .error .badEntry := parseEntry_of_no_value (parseHex_of_notAHexNumber h)

theorem parseEntry_of_hexNumber {digits : Text} (h : ¬ notAHexNumber digits) : parseEntry (txt "entry: " ++ digits)
    = if hexNumber digits < 512 then .ok (BitVec.ofNat 9 (hexNumber digits)) else .error (.entryOutOfRange (hexNumber digits)) :=
  parseEntry_of_value (parseHex_of_hexNumber h).1 (parseHex_of_hexNumber h).2

/-- What a text with a good entry line and 512 word lines constructs. -/
theorem constructFromText_of_good {p : Params} {t digits : Text} {rest : List Text} (g : Regs) (b : Byte) (mem : Memory)
    (hlines : linesOf t = (txt "entry: " ++ digits) :: rest) (hhex : ¬ notAHexNumber digits) (hlt : hexNumber digits < 512)
    (hwords : ∀ j, j < 512 → ∃ line, rest[j]? = some line ∧ (wordField line).length = 10 ∧ ¬ notAHexNumber (wordField line)) :
    ∃ s, constructFromText p t g b mem = .ok s ∧ s.mpc.toNat = hexNumber digits
      ∧ ∀ j line, j < 512 → rest[j]? = some line →
          decodeText p.hexOrder (wordField line) = some (Store.read s.cs j) := by
  have hentry := parseEntry_of_hexNumber hhex
  rw [if_pos hlt] at hentry
  obtain ⟨cs, hcs⟩ := (loadWords_ok_iff (order := p.hexOrder) (slot := 0) (cs := [])).mpr fun j hj => by
    obtain ⟨line, hline, hword⟩ := hwords j hj
    obtain ⟨w, hw⟩ := decodeText_isSome_iff.mpr hword
    exact ⟨line, w, hline, hw⟩
  refine ⟨_, constructFromText_ok.mpr ⟨_, rest, _, cs, hlines, hentry, hcs, rfl⟩, Nat.mod_eq_of_lt hlt, fun j line hj hline => ?_⟩
  have hread := (loadWords_read hcs rfl).1 j line hj hline
  rwa [Nat.zero_add] at hread

/-- A constructed machine holds an image's store and the given values. -/
theorem constructFromText_state {p : Params} {t : Text} {g : Regs} {b : Byte} {mem : Memory} {s : State}
    (h : constructFromText p t g b mem = .ok s) : Store.wf s.cs = true ∧ Store.below 512 s.cs = true
      ∧ s.status = .running ∧ s.pendRead = false ∧ s.pendFetch = false ∧ (∀ x, s.reg x = g.get x) ∧ s.mbr = b ∧ s.mem = mem := by
  obtain ⟨first, rest, entry, cs, -, -, hwords, rfl⟩ := constructFromText_ok.mp h
  obtain ⟨hwf, hbelow⟩ := loadWords_wf p.hexOrder hwords (Nat.le_refl _) rfl rfl
  exact ⟨hwf, hbelow, rfl, rfl, rfl, fun _ => rfl, rfl, rfl⟩

/-- An entry of 0x200 or more in the three digits of an emitted image. -/
theorem constructFromText_of_large_entry {v : Nat} (p : Params) (rest : Text) (g : Regs) (b : Byte) (mem : Memory)
    (hge : 512 ≤ v) (hlt : v < 4096) :
    constructFromText p (txt "entry: " ++ hexText 3 v ++ '\n' :: rest) g b mem = .error (.entryOutOfRange v) := by
  have hfirst : '\n' ∉ txt "entry: " ++ hexText 3 v := by simp [txt, newline_not_mem_hexText]
  have hentry : parseEntry (txt "entry: " ++ hexText 3 v) = .error (.entryOutOfRange v) := by
    rw [parseEntry_of_value (hexText_ne_nil (by decide) _) (parseHex_hexText (by omega)), if_neg (by omega)]
  exact constructFromText_error_of_parseEntry (linesFrom_line _ [] rest hfirst) hentry g b mem

/-- Settles O44: the entry line and the word lines are the two places a load can fail. -/
theorem aShortOrMalformedImageConstructsNoMachine : Obligations.AShortOrMalformedImageConstructsNoMachine := by
  intro p t g b mem
  refine ⟨fun hshort => ?short, fun first rest hlines => ⟨fun hentry => ?noEntry, fun digits hdigits => ?digits,
    fun j line hj hline hbad => ?word⟩, fun s hs => constructFromText_state hs,
    fun v rest hge hlt => constructFromText_of_large_entry p rest g b mem hge hlt⟩
  case short =>
    refine constructFromText_error_of_word (j := 511) (by decide) fun line w hline => ?_
    have := (List.getElem?_eq_some_iff.mp hline).1
    omega
  case noEntry =>
    exact constructFromText_error_of_parseEntry hlines (by rw [parseEntry, if_neg hentry]) g b mem
  case digits =>
    rw [hdigits] at hlines
    refine ⟨fun hnot => ?_, fun hhex hge => ?_, fun hhex hlt hwords => ?_⟩
    · exact constructFromText_error_of_parseEntry hlines (parseEntry_of_notAHexNumber hnot) g b mem
    · have hentry := parseEntry_of_hexNumber hhex
      rw [if_neg (by omega)] at hentry
      exact constructFromText_error_of_parseEntry hlines hentry g b mem
    · exact constructFromText_of_good g b mem hlines hhex hlt hwords
  case word =>
    refine constructFromText_error_of_word hj fun line' w hline' hw => ?_
    rw [hlines, List.getElem?_cons_succ, hline, Option.some.injEq] at hline'
    subst hline'
    obtain ⟨hlen, hhex⟩ := decodeText_isSome_iff.mp ⟨w, hw⟩
    exact hbad.elim (· hlen) hhex

end Sys2Proof
end

section
/-! PROOF. Family other, 10_state.md section 6, 40_cycle.md and 60_exceptions.md: construction, what a step is, how a run
stops, and the whole of one cycle (R120 to R126, R150, R246, R401 to R403, R430). -/

namespace Sys2Proof

open Sys2Proof.Machine Sys2Proof.Claims

/-- Settles O1: construction is these values. -/
theorem constructionGivesTheStatedValues : Obligations.ConstructionGivesTheStatedValues :=
  fun _ _ _ _ _ => ⟨fun _ => rfl, rfl, rfl, rfl, rfl, rfl, rfl, rfl, rfl, rfl, rfl⟩

/-- Settles O2: both stores are empty. -/
theorem resetStoresAreWellFormed : Obligations.ResetStoresAreWellFormed :=
  (storesWellFormed_iff State.reset).mpr ⟨rfl, rfl, rfl, rfl⟩

-- ## One step (R120)

/-- Settles O5: the controller of a running machine is `exec` of the decoded word. -/
theorem aStepRunsTheDecodedInstruction : Obligations.AStepRunsTheDecodedInstruction := by
  rintro s _ hrun rfl
  exact step_running hrun

/-- A running machine does what the word at MPC is. -/
theorem step_eq_runControl {s : State} (hrun : s.status = .running) : step s = runControl (controlOf s.currentWord) s := by
  rw [step_running hrun, exec_eq_runControl, decode_control]

/-- The word placed for the next step is the word at MPC. -/
theorem currentWord_placeWord {s : State} (w : ControlBits) (h : Store.wf s.cs = true) : (s.placeWord w).currentWord = w := by
  have hread := Store.read_write s.mpc.toNat w h s.mpc.toNat
  rw [if_pos rfl] at hread
  exact hread

/-- Settles O7: the placed word is read back from the canonical store, and the machine is running. -/
theorem theWordPlacedForFetchIsTheOneThatRuns : Obligations.TheWordPlacedForFetchIsTheOneThatRuns := by
  intro s nbits w h
  rw [State.withFetchWord, step_running (State.placeWord_status ..), currentWord_placeWord _ h]

-- ## A stopped machine (R121, R401)

theorem runSteps_of_runStep_eq {s : State} (h : runStep s = s) (k : Nat) : runSteps k s = s := by
  induction k with
  | zero => rfl
  | succ k ih => rw [runSteps, h, ih]

theorem runStep_of_halted {s : State} (h : s.status = .halted) : runStep s = s := by
  rw [runStep, step_halted h, settle]

theorem runStep_of_faulted {s : State} {f : Fault} (h : s.status = .faulted f) : runStep s = s := by
  rw [runStep, step_faulted h, settle, State.afterFault, ← h]

/-- Settles O6: in either case a run's step gives the state itself. -/
theorem aStoppedMachineStaysAsItIs : Obligations.AStoppedMachineStaysAsItIs := by
  intro s f k
  exact ⟨fun h => ⟨step_halted h, runSteps_of_runStep_eq (runStep_of_halted h) k⟩,
    fun h => ⟨step_faulted h, runSteps_of_runStep_eq (runStep_of_faulted h) k⟩⟩

theorem active_eq_false_iff (s : State) : s.active = false ↔ field s.currentWord 0 4 = 15 := by simp [State.active]

theorem controlOf_halt {w : ControlBits} (h : field w 0 4 = 15) : controlOf w = .halt := by rw [controlOf, if_pos h]

theorem step_at_halt_word {s : State} (hrun : s.status = .running) (h : field s.currentWord 0 4 = 15) :
    step s = .next (haltedState s) := by
  rw [step_eq_runControl hrun, controlOf_halt h]
  rfl

/-- Settles O13: the halt word's step gives the halted state, which a run never leaves. -/
theorem aHaltWordEndsTheRun : Obligations.AHaltWordEndsTheRun := by
  intro s k hrun
  refine ⟨active_eq_false_iff s, rfl, fun h => ?_, by decide⟩
  have hstep := step_at_halt_word hrun h
  have hrest : runSteps k (haltedState s) = haltedState s := runSteps_of_runStep_eq (runStep_of_halted rfl) k
  refine ⟨hstep, ?_, ?_⟩
  · simp [endsNormallyAfter, hrun, (active_eq_false_iff s).mpr h]
  · rw [runSteps, runStep, hstep, settle, hrest]

-- ## A reserved B value (R150, R401 to R403)

theorem controlOf_reserved {w : ControlBits} (h9 : 9 ≤ field w 0 4) (h14 : field w 0 4 ≤ 14) :
    controlOf w = .reserved (BitVec.ofNat 4 (field w 0 4)) := by
  rcases controlOf_cases w with ⟨h15, -⟩ | ⟨-, -, h⟩ | ⟨hlt, -⟩
  · omega
  · exact h
  · omega

theorem step_at_reserved_word {s : State} (hrun : s.status = .running) (h9 : 9 ≤ field s.currentWord 0 4)
    (h14 : field s.currentWord 0 4 ≤ 14) :
    step s = .fault (.invalidBSelect s.mpc (BitVec.ofNat 4 (field s.currentWord 0 4))) := by
  rw [step_eq_runControl hrun, controlOf_reserved h9 h14]
  rfl

/-- Settles O14: the six rows raise the fault, and a run keeps the state before the word with the record. -/
theorem aReservedBValueFaultsBeforeAnyWrite : Obligations.AReservedBValueFaultsBeforeAnyWrite := by
  refine fun s => ⟨rfl, rfl, rfl, rfl, rfl, rfl, fun hrun h9 h14 => ?_⟩
  have hstep := step_at_reserved_word hrun h9 h14
  refine ⟨hstep, ?_, ?_⟩
  · rw [runStep, hstep]
    rfl
  · simp [endsInFaultAfter, hrun, hstep, isFault]

/-- A running machine at a horizontal word runs the cycle of its fields. -/
theorem step_at_micro_word {s : State} (hrun : s.status = .running) (h : field s.currentWord 0 4 < 9) :
    ∃ b, step s = .next (cycleOf (microOf b s.currentWord) s) := by
  rcases controlOf_cases s.currentWord with ⟨h15, -⟩ | ⟨h9, -, -⟩ | ⟨-, b, -, hw⟩
  · omega
  · omega
  · exact ⟨b, by rw [step_eq_runControl hrun, hw]; rfl⟩

theorem step_ne_refused {s : State} (hrun : s.status = .running) (r : Refusal) : step s ≠ .refused r := by
  rw [step_running hrun]
  exact exec_ne_refused _ s r

/-- Settles O15, by the three cases of the word's B field: a halt and a cycle answer a next state. -/
theorem onlyAReservedBValueFaults : Obligations.OnlyAReservedBValueFaults := by
  refine fun s hrun => ⟨fun f hfault => ?_, step_ne_refused hrun, fun hlt => ?_⟩
  · rw [step_eq_runControl hrun] at hfault
    rcases controlOf_cases s.currentWord with ⟨-, hw⟩ | ⟨h9, h14, -⟩ | ⟨-, b, -, hw⟩
    · rw [hw] at hfault
      cases hfault
    · exact ⟨h9, h14⟩
    · rw [hw] at hfault
      cases hfault
  · obtain ⟨b, hstep⟩ := step_at_micro_word hrun hlt
    exact ⟨_, hstep, (cycleOf_status _ s).trans hrun⟩

-- ## The whole cycle (R122)

theorem tapped_eq_tested (m : Micro) (s : State) : tapped s.params.flagTap (aluOutput m s) (result m s) = tested m s := by
  cases h : s.params.flagTap <;> simp [tapped, tested, h]

/-- ADDR with bit 8 for either modifier that meets its flag, and with the byte for JMPC (R240). -/
theorem nextAddress_eq (m : Micro) (z n : Bool) (byte : Byte) : nextAddress m z n byte
    = m.addr ||| (if m.jamz && z || m.jamn && n then 0x100#9 else 0#9) ||| (if m.jmpc then byte.setWidth 9 else 0#9) := by
  rw [nextAddress]
  cases m.jamz && z <;> cases m.jamn && n <;> simp [BitVec.or_assoc]

theorem cycleOf_mpc_eq (m : Micro) (s : State) : (cycleOf m s).mpc
    = m.addr ||| (if (m.jamz = true ∧ tested m s = 0#32) ∨ (m.jamn = true ∧ (tested m s).toInt < 0) then 0x100#9 else 0#9)
      ||| (if m.jmpc = true then (landedByte s).setWidth 9 else 0#9) := by
  rw [cycleOf_mpc, tapped_eq_tested, nextAddress_eq, cycleOf_mbr, landedByte, nFlag_eq, zFlag]
  simp

theorem usesDraw_iff (f : AluFn) : usesDraw f = true ↔ ∃ c, f = .undefined c := by cases f <;> simp [usesDraw]

theorem wordInRange_iff (s : State) (k : Word) : s.wordInRange k = true ↔ 4 * k.toNat + 4 ≤ s.params.memBytes :=
  decide_eq_true_iff

theorem byteInRange_iff (s : State) (a : Word) : s.byteInRange a = true ↔ a.toNat < s.params.memBytes :=
  decide_eq_true_iff

theorem cycleOf_memoryIs (m : Micro) {s : State} (h : Store.wf s.mem = true) : MemoryIs m.wr s (cycleOf m s) := by
  intro a
  simp only [cycleOf_byteAt m s h, wordInRange_iff]

theorem cycleOf_oorSeen_iff (m : Micro) (s : State) : (cycleOf m s).oorSeen = true ↔ (s.oorSeen = true
    ∨ (s.pendRead = true ∧ ¬ 4 * (s.reg .mar).toNat + 4 ≤ s.params.memBytes)
    ∨ (s.pendFetch = true ∧ ¬ (s.reg .pc).toNat < s.params.memBytes)
    ∨ (m.wr = true ∧ ¬ 4 * ((cycleOf m s).reg .mar).toNat + 4 ≤ s.params.memBytes)) := by
  rw [cycleOf_oorSeen, ← wordInRange_iff, ← wordInRange_iff, ← byteInRange_iff]
  simp only [Bool.or_eq_true, Bool.and_eq_true, Bool.not_eq_true', Bool.not_eq_true, or_assoc]

theorem cycleOf_effect (m : Micro) {s : State} (h : Store.wf s.mem = true) : CycleEffect m s (cycleOf m s) where
  registers := cycleOf_reg m s
  instructionByte := cycleOf_mbr m s
  pendingRead := cycleOf_pendRead m s
  pendingFetch := cycleOf_pendFetch m s
  memory := cycleOf_memoryIs m h
  nextWord := cycleOf_mpc_eq m s
  outOfRange := cycleOf_oorSeen_iff m s
  controlStore := cycleOf_cs m s
  runStatus := cycleOf_status m s
  parameters := cycleOf_params m s
  freeValues := by simp only [cycleOf_draws, usesDraw_iff]

/-- Settles O16: every such instruction is one cycle, whose fields are given one by one. -/
theorem everyHorizontalRowRunsTheCycle : Obligations.EveryHorizontalRowRunsTheCycle :=
  fun _ m s hi hmem => ⟨cycleOf m s, exec_of_micro hi s, cycleOf_effect m hmem⟩

end Sys2Proof
end

section
/-! PROOF. Family other, 43_cbus.md, 44_alu_shift.md section 1 and 45_next_address.md: the rows of the C field, of the
undefined ALU codes and of the next-address bits (R180 to R191, R217, R240 to R245). -/

namespace Sys2Proof

open Sys2Proof.Machine Sys2Proof.Claims

-- ## The C rows (R180 to R191)

theorem Dest.has_add (d : Dest) (r : Reg) : (d.add r).has = fun x => decide (x = r) || d.has x := by
  funext x
  cases r <;> cases x <;> simp [Dest.add, Dest.has]

theorem Dest.has_empty (x : Reg) : Dest.empty.has x = false := by cases x <;> rfl

theorem Dest.has_ofFn (f : Reg → Bool) (x : Reg) : (Dest.ofFn f).has x = f x := by cases x <;> rfl

/-- The nine C rows at once: the row's register joins the word's destinations, and the encoding has its bit. -/
theorem destRow_commits {i : Instr} {m : Micro} {r : Reg} (h : i.control = .micro (m.setDest r)) (s : State) :
    Completes i s (RegistersAre (fun x => decide (x = r) || m.dest.has x) (result m s) s)
      ∧ field (encode i) (7 + r.cBit) 1 = 1 := by
  have hbit : r.cBit < 9 := by cases r <;> decide
  rw [← Dest.has_add, encode_of_micro h, Laws.TableMatch.field_encodeMicro_dest _ _ hbit]
  exact ⟨completes_registersAre h s, Laws.TableMatch.dest_code_add m.dest r⟩

/-- Settles O18: each row is `destRow_commits` at its register. -/
theorem theCBusRowsCommitTheResult : Obligations.TheCBusRowsCommitTheResult := fun _ s =>
  ⟨destRow_commits (r := .mar) rfl s, destRow_commits (r := .mdr) rfl s, destRow_commits (r := .pc) rfl s,
    destRow_commits (r := .sp) rfl s, destRow_commits (r := .lv) rfl s, destRow_commits (r := .cpp) rfl s,
    destRow_commits (r := .tos) rfl s, destRow_commits (r := .opc) rfl s, destRow_commits (r := .h) rfl s⟩

/-- Without destinations a cycle changes no register but MDR, and that by a landing. -/
theorem cycleOf_reg_of_not_has {m : Micro} {x : Reg} (h : m.dest.has x = false) (s : State) : (cycleOf m s).reg x
    = if x = .mdr ∧ s.pendRead = true then s.memReadWord (s.reg .mar) else s.reg x := by
  simp [cycleOf_reg, h]

/-- Settles O19: the C field 0 has no register, and the next address does not look at the C field. -/
theorem aWordWithoutDestinationWritesNoRegister : Obligations.AWordWithoutDestinationWritesNoRegister := by
  intro m s
  have hkeep : ∀ x, (cycleOf m.clearDest s).reg x
      = if x = .mdr ∧ s.pendRead = true then s.memReadWord (s.reg .mar) else s.reg x :=
    fun x => cycleOf_reg_of_not_has (Dest.has_empty x) s
  refine ⟨⟨cycleOf m.clearDest s, exec_of_micro rfl s, fun x hx => ?_, ?_, fun hjmpc => ?_⟩, field_encodeMicro_c m.clearDest⟩
  · simp [hkeep, hx]
  · simp [hkeep]
  · have hnext : (cycleOf m.clearDest s).mpc = m.addr
        ||| (if (m.jamz = true ∧ tested m s = 0#32) ∨ (m.jamn = true ∧ (tested m s).toInt < 0) then 0x100#9 else 0#9)
        ||| (if m.jmpc = true then (landedByte s).setWidth 9 else 0#9) := cycleOf_mpc_eq m.clearDest s
    rw [hnext, hjmpc]
    split <;> simp

-- ## The undefined ALU codes (R217)

/-- The 48 rows of an undefined code at once: the next free value is the ALU's output, and the rest of the cycle happens. -/
theorem undefinedAlu_runs {i : Instr} {m : Micro} {c : BitVec 6} {n : Nat} (h : i.control = .micro (m.setAlu (.undefined c)))
    (hn : c.toNat = n) (s : State) :
    Completes i s (fun t => RegistersAre m.dest.has (shifter (Config.draw32 s.draws) m.sra1 m.sll8) s t
        ∧ t.draws = s.draws + 1 ∧ t.mbr = landedByte s ∧ t.pendRead = m.rd ∧ t.pendFetch = m.fetch ∧ t.status = s.status)
      ∧ field (encode i) 16 6 = n := by
  rw [encode_of_micro h, ← hn]
  exact ⟨⟨cycleOf _ s, exec_of_micro h s, cycleOf_reg _ s, cycleOf_draws _ s, cycleOf_mbr _ s, cycleOf_pendRead _ s,
    cycleOf_pendFetch _ s, cycleOf_status _ s⟩, field_encodeMicro_alu _⟩

/-- Settles O22: each of the 48 rows is `undefinedAlu_runs` at its code. -/
theorem anUndefinedAluCodeRunsWithAFreeValue : Obligations.AnUndefinedAluCodeRunsWithAFreeValue := by
  intro m s drawn
  iterate 47 refine ⟨undefinedAlu_runs (by rfl) (by rfl) s, ?_⟩
  exact undefinedAlu_runs (by rfl) (by rfl) s

-- ## The next-address rows (R240 to R245)

/-- The eight next-address rows at once, at the address a that the row's three bits give. -/
theorem nextRow_goes {i : Instr} {m : Micro} {jamz jamn jmpc : Bool} (h : i.control = .micro (m.setNext jamz jamn jmpc))
    {s : State} {a : Slot} (ha : m.addr
      ||| (if (jamz = true ∧ tested m s = 0#32) ∨ (jamn = true ∧ (tested m s).toInt < 0) then 0x100#9 else 0#9)
      ||| (if jmpc = true then (landedByte s).setWidth 9 else 0#9) = a) :
    Completes i s (fun t => t.mpc = a ∧ RegistersAre m.dest.has (result m s) s t)
      ∧ field (encode i) 24 3 = jamz.toNat + 2 * jamn.toNat + 4 * jmpc.toNat := by
  rw [encode_of_micro h, ← ha]
  exact ⟨⟨cycleOf _ s, exec_of_micro h s, cycleOf_mpc_eq _ s, cycleOf_reg _ s⟩, field_encodeMicro_next _⟩

/-- ORing bit 8 in where a flag is met is choosing between ADDR and the paired address. -/
theorem or_ite_high (a : Slot) (p : Prop) [Decidable p] :
    (a ||| if p then 0x100#9 else 0#9) = if p then a ||| 0x100#9 else a := by
  split <;> simp

/-- Settles O24: each row is `nextRow_goes` at its three bits. -/
theorem theNextAddressRowsComputeTheNextWord : Obligations.TheNextAddressRowsComputeTheNextWord := by
  intro m s z n byte go
  exact ⟨nextRow_goes (jamz := false) (jamn := false) (jmpc := false) rfl (by simp),
    nextRow_goes (jamz := true) (jamn := false) (jmpc := false) rfl (by simp [or_ite_high, z]),
    nextRow_goes (jamz := false) (jamn := true) (jmpc := false) rfl (by simp [or_ite_high, n]),
    nextRow_goes (jamz := false) (jamn := false) (jmpc := true) rfl (by simp [byte]),
    nextRow_goes (jamz := true) (jamn := true) (jmpc := false) rfl (by simp [or_ite_high, z, n]),
    nextRow_goes (jamz := true) (jamn := false) (jmpc := true) rfl (by simp [or_ite_high, z, byte]),
    nextRow_goes (jamz := false) (jamn := true) (jmpc := true) rfl (by simp [or_ite_high, n, byte]),
    nextRow_goes (jamz := true) (jamn := true) (jmpc := true) rfl (by simp [or_ite_high, z, n, byte])⟩

-- ## What a step leaves of the registers (R20 to R22)

/-- The fields of a horizontal word are those of its bits. -/
theorem eq_microOf_of_control {w : ControlBits} {m : Micro} (h : (decode w).control = .micro m) : ∃ b, m = microOf b w := by
  rw [decode_control] at h
  rcases controlOf_cases w with ⟨-, hw⟩ | ⟨-, -, hw⟩ | ⟨-, b, -, hw⟩ <;> rw [hw] at h <;> cases h
  exact ⟨b, rfl⟩

/-- Settles O32, by what a step can do: only a cycle writes registers, and of those other than MDR the ones of its C bits. -/
theorem aRegisterWithoutItsCBitIsUnchanged : Obligations.ARegisterWithoutItsCBitIsUnchanged := by
  intro s t x hstep hbit hx
  rcases step_next_cases hstep with ⟨-, rfl⟩ | ⟨-, -, rfl⟩ | ⟨-, m, hm, rfl⟩
  · rfl
  · rfl
  · obtain ⟨b, rfl⟩ := eq_microOf_of_control hm
    rw [cycleOf_reg_of_not_has ((Dest.has_ofFn _ x).trans hbit), if_neg fun h => hx h.1]

end Sys2Proof
end

section
/-! PROOF. Family other, 20_memory.md and 42_memory_ops.md: the two views of one buffer, accesses out of range, and the memory
operations with their landings (R52 to R56, R65, R160 to R167). -/

namespace Sys2Proof

open Sys2Proof.Machine Sys2Proof.Claims

-- ## Words and bytes (R52 to R55)

theorem memReadWord_of_inRange {s : State} {k : Word} (h : 4 * k.toNat + 4 ≤ s.params.memBytes) :
    s.memReadWord k = s.wordOfBytes k.toNat := by
  rw [State.memReadWord, if_pos ((wordInRange_iff s k).mpr h)]

/-- A word in range whose four bytes are those of a value reads as that value. -/
theorem memReadWord_eq_of_bytes {s : State} {k v : Word} (h : 4 * k.toNat + 4 ≤ s.params.memBytes)
    (hbytes : ∀ j, j < 4 → s.byteAt (4 * k.toNat + j) = splitByte s.params.byteOrder v j) : s.memReadWord k = v := by
  have h0 := hbytes 0 (by decide)
  rw [Nat.add_zero] at h0
  rw [memReadWord_of_inRange h, State.wordOfBytes, h0, hbytes 1 (by decide), hbytes 2 (by decide), hbytes 3 (by decide),
    joinBytes_splitByte]

/-- The offset within its word of the byte of significance j (decision D10). -/
def byteOffset (order : ByteOrder) (j : Nat) : Nat := if order = .little then j else 3 - j

/-- The byte of significance j of a joined word is the one at its offset. -/
theorem joinBytes_div_mod (order : ByteOrder) (byte : Nat → Byte) {j : Nat} (hj : j < 4) :
    (joinBytes order (byte 0) (byte 1) (byte 2) (byte 3)).toNat / 256 ^ j % 256 = (byte (byteOffset order j)).toNat := by
  have h0 := (byte 0).isLt
  have h1 := (byte 1).isLt
  have h2 := (byte 2).isLt
  have h3 := (byte 3).isLt
  cases order <;> simp only [joinBytes, append_bytes_toNat, byteOffset] <;> interval_cases j <;> simp <;> omega

/-- The byte of a split word at the offset of significance j. -/
theorem splitByte_byteOffset (order : ByteOrder) (v : Word) {j : Nat} (hj : j < 4) :
    (splitByte order v (byteOffset order j)).toNat = v.toNat / 256 ^ j % 256 := by
  cases order with
  | little => exact extract_byte_toNat v j
  | big =>
    have hsub : 3 - (3 - j) = j := by omega
    simp only [splitByte, byteOffset, reduceCtorEq, if_false, hsub, extract_byte_toNat]

theorem byteOffset_lt (order : ByteOrder) {j : Nat} (hj : j < 4) : byteOffset order j < 4 := by
  unfold byteOffset
  split <;> omega

/-- A byte of a written word is the value's. -/
theorem byteAt_memWriteWord_of_lt {s : State} {k : Word} (v : Word) (hr : 4 * k.toNat + 4 ≤ s.params.memBytes)
    (hw : Store.wf s.mem = true) {j : Nat} (hj : j < 4) :
    (s.memWriteWord k v).byteAt (4 * k.toNat + j) = splitByte s.params.byteOrder v j := by
  rw [State.memWriteWord_byteAt s k v hw, if_pos ⟨(wordInRange_iff s k).mpr hr, by omega, by omega⟩, Nat.add_sub_cancel_left]

/-- Settles O34: a joined word's bytes are those joined, and a write's four bytes are those split. -/
theorem theWordViewAndTheByteViewShareOneBuffer : Obligations.TheWordViewAndTheByteViewShareOneBuffer := by
  intro s k v hr
  refine ⟨fun j hj => ?read, fun hw => ⟨?wordBack, fun j hj => ?bytes, fun a ha => ?others⟩⟩
  case read =>
    rw [memReadWord_of_inRange hr]
    exact joinBytes_div_mod s.params.byteOrder (fun j => s.byteAt (4 * k.toNat + j)) hj
  case wordBack => exact memReadWord_eq_of_bytes hr fun j hj => byteAt_memWriteWord_of_lt v hr hw hj
  case bytes =>
    have hbyte := byteAt_memWriteWord_of_lt v hr hw (byteOffset_lt s.params.byteOrder hj)
    exact (congrArg BitVec.toNat hbyte).trans (splitByte_byteOffset s.params.byteOrder v hj)
  case others => rw [State.memWriteWord_byteAt s k v hw, if_neg (by omega)]

-- ## Out of range (R54 to R56, R65)

theorem memWriteWord_of_not_inRange {s : State} {k : Word} (v : Word) (h : ¬ 4 * k.toNat + 4 ≤ s.params.memBytes) :
    (s.memWriteWord k v).mem = s.mem ∧ (s.memWriteWord k v).oorSeen = true := by
  rw [← wordInRange_iff, Bool.not_eq_true] at h
  simp [State.memWriteWord, h]

/-- No step clears OOR_SEEN. -/
theorem step_keeps_oorSeen {s t : State} (hstep : step s = .next t) (h : s.oorSeen = true) : t.oorSeen = true := by
  rcases step_next_cases hstep with ⟨-, rfl⟩ | ⟨-, -, rfl⟩ | ⟨-, m, -, rfl⟩
  · exact h
  · exact h
  · exact (cycleOf_oorSeen_iff m s).mpr (.inl h)

/-- A horizontal word's step is a cycle, which lands what is pending. -/
theorem eq_cycleOf_of_step {s t : State} (hrun : s.status = .running) (hb : field s.currentWord 0 4 < 9)
    (hstep : step s = .next t) : ∃ b, t = cycleOf (microOf b s.currentWord) s := by
  obtain ⟨b, hcycle⟩ := step_at_micro_word hrun hb
  rw [hcycle] at hstep
  cases hstep
  exact ⟨b, rfl⟩

/-- Settles O35: the primitives by their range tests, the steps by the cycle's OOR_SEEN. -/
theorem outOfRangeAccessesAreSilent : Obligations.OutOfRangeAccessesAreSilent := by
  intro s k v
  refine ⟨fun h => ⟨?_, memWriteWord_of_not_inRange v h⟩, fun h => ?_, fun h => ?_, fun h => ?_,
    fun t hstep => step_keeps_oorSeen hstep, fun t hrun hb hstep hpend hout => ?_, fun t hrun hb hstep hpend hout => ?_⟩
  · rw [State.memReadWord, if_neg ((wordInRange_iff s k).not.mpr h)]
  · simp [State.memWriteWord, (wordInRange_iff s k).mpr h]
  · rw [State.memReadByte, if_neg ((byteInRange_iff s k).not.mpr h)]
  · rw [State.memReadByte, if_pos ((byteInRange_iff s k).mpr h)]
  · obtain ⟨b, rfl⟩ := eq_cycleOf_of_step hrun hb hstep
    exact (cycleOf_oorSeen_iff _ s).mpr (.inr (.inl ⟨hpend, hout⟩))
  · obtain ⟨b, rfl⟩ := eq_cycleOf_of_step hrun hb hstep
    exact (cycleOf_oorSeen_iff _ s).mpr (.inr (.inr (.inl ⟨hpend, hout⟩)))

-- ## Reads and fetches (R160 to R164, R167)

theorem cycleOf_mem_of_not_wr {m : Micro} (h : m.wr = false) (s : State) : (cycleOf m s).mem = s.mem := by
  rw [cycleOf_mem, h]
  rfl

/-- With a read pending, MDR is the cycle's own result or the landed word (R161). -/
theorem cycleOf_reg_mdr_pending (n : Micro) {t : State} (hpend : t.pendRead = true) : (cycleOf n t).reg .mdr
    = if n.dest.mdr = true then result n t else t.memReadWord (t.reg .mar) := by
  simp [cycleOf_reg, hpend, Dest.has]

/-- Settles O25: RD arms the read and no more; the next cycle's MDR is its own result or the landed word. -/
theorem aReadReachesMdrInTheNextCycle : Obligations.AReadReachesMdrInTheNextCycle := by
  intro m s
  refine ⟨field_encodeMicro_rd m.setRd, cycleOf m.setRd s, exec_of_micro rfl s, cycleOf_pendRead _ s, cycleOf_pendFetch _ s,
    cycleOf_reg _ s, fun hwr => cycleOf_mem_of_not_wr (m := m.setRd) hwr s, fun j n hj => ?_⟩
  exact ⟨cycleOf n _, exec_of_micro hj _, cycleOf_reg_mdr_pending n (cycleOf_pendRead m.setRd s), cycleOf_pendRead n _⟩

/-- Settles O26: FETCH arms the fetch and no more; the next cycle's MBR, which its JMPC takes, is the landed byte. -/
theorem aFetchReachesMbrInTheNextCycle : Obligations.AFetchReachesMbrInTheNextCycle := by
  intro m s
  refine ⟨field_encodeMicro_fetch m.setFetch, cycleOf m.setFetch s, exec_of_micro rfl s, cycleOf_pendFetch _ s,
    cycleOf_pendRead _ s, cycleOf_reg _ s, fun hwr => cycleOf_mem_of_not_wr (m := m.setFetch) hwr s, fun j n hj => ?_⟩
  refine ⟨cycleOf n _, exec_of_micro hj _, cycleOf_mbr_of_pendFetch n (cycleOf_pendFetch m.setFetch s), cycleOf_pendFetch n _,
    fun hjamz hjamn hjmpc => ?_⟩
  rw [cycleOf_mpc, nextAddress_eq]
  simp [hjamz, hjamn, hjmpc]

/-- Settles O30: a cycle leaves pending exactly what its own word names. -/
theorem thePendingFlagsHoldOneCycle : Obligations.ThePendingFlagsHoldOneCycle := by
  intro s t hrun hb hstep
  obtain ⟨b, rfl⟩ := eq_cycleOf_of_step hrun hb hstep
  exact ⟨cycleOf_pendRead _ s, cycleOf_pendFetch _ s⟩

-- ## Writes (R162, R166)

/-- A cycle that writes word MAR in range leaves MDR there, both as they are at its end. -/
theorem memReadWord_cycleOf_of_wr {m : Micro} {s : State} (hwr : m.wr = true) (hw : Store.wf s.mem = true)
    (hr : 4 * ((cycleOf m s).reg .mar).toNat + 4 ≤ s.params.memBytes) :
    (cycleOf m s).memReadWord ((cycleOf m s).reg .mar) = (cycleOf m s).reg .mdr := by
  have hparams := cycleOf_params m s
  refine memReadWord_eq_of_bytes (by rwa [hparams]) fun j hj => ?_
  rw [cycleOf_memoryIs m hw, if_pos ⟨hwr, hr, by omega, by omega⟩, hparams, Nat.add_sub_cancel_left]

/-- A write out of range is dropped, and OOR_SEEN records it. -/
theorem cycleOf_of_wr_not_inRange {m : Micro} {s : State} (hwr : m.wr = true)
    (hr : ¬ 4 * ((cycleOf m s).reg .mar).toNat + 4 ≤ s.params.memBytes) :
    (cycleOf m s).mem = s.mem ∧ (cycleOf m s).oorSeen = true := by
  refine ⟨?_, (cycleOf_oorSeen_iff m s).mpr (.inr (.inr (.inr ⟨hwr, hr⟩)))⟩
  rw [← afterCommit_reg] at hr
  rw [cycleOf_mem, hwr, State.doWrite, if_pos rfl]
  exact (memWriteWord_of_not_inRange (s := afterCommit m s) _ hr).1

/-- Settles O28: the store is step 7 of the cycle, after its landing and its commit. -/
theorem aWriteStoresMdrAtWordMarInItsOwnCycle : Obligations.AWriteStoresMdrAtWordMarInItsOwnCycle := by
  intro m s
  exact ⟨field_encodeMicro_wr m.setWr, cycleOf m.setWr s, exec_of_micro rfl s, cycleOf_reg _ s, cycleOf_pendRead _ s,
    cycleOf_pendFetch _ s, cycleOf_memoryIs m.setWr, cycleOf_of_wr_not_inRange rfl, memReadWord_cycleOf_of_wr rfl⟩

/-- Settles O29: the read lands the word at MAR as the write left it. -/
theorem aReadWithAWriteReadsBackWhatItWrote : Obligations.AReadWithAWriteReadsBackWhatItWrote := by
  intro m s
  have hpend := cycleOf_pendRead m.setRd.setWr s
  refine ⟨(Laws.TableMatch.field_encodeMicro_mem m.setRd.setWr).2, cycleOf m.setRd.setWr s, exec_of_micro rfl s, hpend,
    cycleOf_reg _ s, cycleOf_memoryIs m.setRd.setWr, fun j n hj hw hmdr hr => ?_⟩
  exact ⟨cycleOf n _, exec_of_micro hj _,
    (cycleOf_reg_mdr_of_pendRead hpend hmdr).trans (memReadWord_cycleOf_of_wr rfl hw hr)⟩

end Sys2Proof
end

section
/-! PROOF. Family other, 46_microassembler.md section 2: the expressions the line encoder accepts are the rows of R271's
table, and their codes compute them. -/

namespace Sys2Proof

open Sys2Proof.Machine Sys2Proof.Claims

-- ## The table of R271

/-- A function the encoder may use is the one its code names. -/
theorem AluFn.eq_aluFnOf {f : AluFn} (hf : f.wellFormed = true) {n : Nat} (h : f.code = n) : f = aluFnOf n := by
  rw [← h, aluFnOf_code hf]

/-- What the encoder accepts without a shift is a row of the table. -/
theorem tableRow_of_encodeUnshifted {e : Expr} {f : AluFn} {b : BSource} (h : encodeUnshifted e = some (f, b)) :
    f.wellFormed = true ∧ tableRow e f.code b.code := by
  unfold encodeUnshifted at h
  split at h <;> simp only [Option.map_eq_some_iff, Option.some.injEq, Prod.mk.injEq, reduceCtorEq] at h
  case h_5 | h_8 | h_12 | h_13 =>
    obtain ⟨r, hr, rfl, rfl⟩ := h
    rcases binaryB_some hr with ⟨rfl, rfl⟩ | ⟨rfl, rfl⟩ <;> exact ⟨rfl, by simp [tableRow, AluFn.code]⟩
  all_goals
    obtain ⟨rfl, rfl⟩ := h
    exact ⟨rfl, by simp [tableRow, AluFn.code, BSource.code]⟩

/-- Every row of the table is accepted with the function and the source its fields name. -/
theorem encodeUnshifted_of_tableRow {e : Expr} {f : AluFn} {b : BSource} (hf : f.wellFormed = true)
    (h : tableRow e f.code b.code) : encodeUnshifted e = some (f, b) := by
  have hsource : bSourceOf b.code = some b := bSourceOf_code b
  have hnone : bSourceOf 0 = some .mdr := rfl
  rcases h with ⟨rfl, ha, hb⟩ | ⟨r, rfl, ha, hb⟩ | ⟨rfl, ha, hb⟩ | ⟨r, rfl, ha, hb⟩ | ⟨r, rfl | rfl, ha, hb⟩
    | ⟨r, rfl | rfl, ha, hb⟩ | ⟨rfl, ha, hb⟩ | ⟨r, rfl, ha, hb⟩ | ⟨r, rfl, ha, hb⟩ | ⟨r, rfl, ha, hb⟩ | ⟨rfl, ha, hb⟩
    | ⟨r, rfl | rfl, ha, hb⟩ | ⟨r, rfl | rfl, ha, hb⟩ | ⟨rfl, ha, hb⟩ | ⟨rfl, ha, hb⟩ | ⟨rfl, ha, hb⟩
  all_goals
    simp only [hb, hnone, bSourceOf_code, Option.some.injEq] at hsource
    rw [AluFn.eq_aluFnOf hf ha, ← hsource]
    rfl

-- ## The shift suffixes (R271)

/-- The expression is shifted as a whole. -/
def shifted : Expr → Bool
  | .shiftRight _ _ => true
  | .shiftLeft _ _ => true
  | _ => false

theorem shifted_of_tableRow {e : Expr} {alu b : Nat} (h : tableRow e alu b) : shifted e = false := by
  cases e <;> simp [tableRow] at h <;> rfl

/-- An expression under a suffix is encoded as its own code with the suffix's bits. -/
theorem encodeExpr_underShifts {e : Expr} (h : shifted e = false) (sra1 sll8 : Bool) :
    encodeExpr (underShifts sra1 sll8 e) = shiftedCode e sra1 sll8 := by
  cases e <;> cases h <;> cases sra1 <;> cases sll8 <;> rfl

/-- What the encoder accepts is a row of the table under the suffix of its shift bits. -/
theorem tableRow_of_encodeExpr {e : Expr} {c : ExprCode} (h : encodeExpr e = some c) :
    c.alu.wellFormed = true ∧ ∃ e', e = underShifts c.sra1 c.sll8 e' ∧ tableRow e' c.alu.code c.bsrc.code := by
  obtain ⟨e', he, hshift⟩ := encodeExpr_some h
  obtain ⟨hwf, hrow⟩ := tableRow_of_encodeUnshifted he
  refine ⟨hwf, e', ?_, hrow⟩
  rcases hshift with ⟨h, hr, hl⟩ | ⟨h, hr, hl⟩ | ⟨h, hr, hl⟩ | ⟨h, hr, hl⟩ <;> rw [hr, hl, h] <;> rfl

/-- Settles O46: the encoder's own case split is the table, and the four suffixes are its shift bits. -/
theorem theEncoderAcceptsExactlyTheTableOfExpressions : Obligations.TheEncoderAcceptsExactlyTheTableOfExpressions := by
  refine fun e c => ⟨tableRow_of_encodeExpr, ?_⟩
  rintro ⟨hwf, e', rfl, hrow⟩
  rw [encodeExpr_underShifts (shifted_of_tableRow hrow), shiftedCode, encodeUnshifted_of_tableRow hwf hrow]
  rfl

-- ## The value of an accepted expression

/-- An unshifted expression's code is its value, read as it is written: one of the accepted forms at a time. -/
theorem exprValue_of_encodeUnshifted {e : Expr} {f : AluFn} {b : BSource} (h : encodeUnshifted e = some (f, b)) (s : State)
    (free : Word) : exprValue s e = some (aluFunction f s.aInput (s.bInput b) free) ∧ usesDraw f = false := by
  unfold encodeUnshifted at h
  split at h <;> simp only [Option.map_eq_some_iff, Option.some.injEq, Prod.mk.injEq, reduceCtorEq] at h
  case h_5 | h_8 | h_12 | h_13 =>
    obtain ⟨r, hr, rfl, rfl⟩ := h
    refine ⟨?_, rfl⟩
    rcases binaryB_some hr with ⟨rfl, rfl⟩ | ⟨rfl, rfl⟩ <;>
      simp [exprValue, atomValue, aluFunction, State.aInput, BitVec.add_comm, BitVec.and_comm, BitVec.or_comm]
  all_goals
    obtain ⟨rfl, rfl⟩ := h
    exact ⟨rfl, rfl⟩

/-- A suffix shifts the value, right shift first. -/
theorem exprValue_underShifts {s : State} {e : Expr} {v : Word} (h : exprValue s e = some v) (sra1 sll8 : Bool) :
    exprValue s (underShifts sra1 sll8 e) = some (shifter v sra1 sll8) := by
  cases sra1 <;> cases sll8 <;> simp [underShifts, exprValue, h, shifter, sll8Of, sra1Of_eq_sshiftRight]

theorem exprValue_of_encodeExpr {e : Expr} {c : ExprCode} (h : encodeExpr e = some c) (s : State) (free : Word) :
    exprValue s e = some (shifter (aluFunction c.alu s.aInput (s.bInput c.bsrc) free) c.sra1 c.sll8)
      ∧ usesDraw c.alu = false := by
  obtain ⟨hwf, e', rfl, hrow⟩ := tableRow_of_encodeExpr h
  obtain ⟨hvalue, hdraw⟩ := exprValue_of_encodeUnshifted (encodeUnshifted_of_tableRow hwf hrow) s free
  exact ⟨exprValue_underShifts hvalue c.sra1 c.sll8, hdraw⟩

-- ## Rejected expressions

/-- A form that is no row of the table is rejected under every suffix. -/
theorem encodeExpr_underShifts_eq_none {e : Expr} (hshift : shifted e = false) (h : ∀ alu b, ¬ tableRow e alu b)
    (sra1 sll8 : Bool) : encodeExpr (underShifts sra1 sll8 e) = none := by
  have hnone : encodeUnshifted e = none :=
    Option.eq_none_iff_forall_ne_some.mpr fun _ hc => h _ _ (tableRow_of_encodeUnshifted hc).2
  rw [encodeExpr_underShifts hshift, shiftedCode, hnone]
  rfl

theorem not_namesForeignRegister_of_tableRow {e : Expr} {alu b : Nat} (h : tableRow e alu b) : ¬ namesForeignRegister e := by
  rcases h with ⟨rfl, -⟩ | ⟨r, rfl, -⟩ | ⟨rfl, -⟩ | ⟨r, rfl, -⟩ | ⟨r, rfl | rfl, -⟩ | ⟨r, rfl | rfl, -⟩ | ⟨rfl, -⟩
    | ⟨r, rfl, -⟩ | ⟨r, rfl, -⟩ | ⟨r, rfl, -⟩ | ⟨rfl, -⟩ | ⟨r, rfl | rfl, -⟩ | ⟨r, rfl | rfl, -⟩ | ⟨rfl, -⟩ | ⟨rfl, -⟩
    | ⟨rfl, -⟩
  all_goals simp [namesForeignRegister]

theorem namesForeignRegister_underShifts (sra1 sll8 : Bool) (e : Expr) :
    namesForeignRegister (underShifts sra1 sll8 e) ↔ namesForeignRegister e := by
  cases sra1 <;> cases sll8 <;> rfl

theorem encodeExpr_eq_none_of_foreign {e : Expr} (h : namesForeignRegister e) : encodeExpr e = none := by
  refine Option.eq_none_iff_forall_ne_some.mpr fun c hc => ?_
  obtain ⟨-, e', rfl, hrow⟩ := tableRow_of_encodeExpr hc
  exact not_namesForeignRegister_of_tableRow hrow ((namesForeignRegister_underShifts _ _ _).mp h)

/-- A binary form of two registers is no row unless exactly one is H (R271). -/
theorem not_tableRow_of_atoms {x y : Atom} (h : x = .h ↔ y = .h) :
    (∀ alu b, ¬ tableRow (.add (.atom x) (.atom y)) alu b) ∧ (∀ alu b, ¬ tableRow (.and (.atom x) (.atom y)) alu b)
      ∧ (∀ alu b, ¬ tableRow (.or (.atom x) (.atom y)) alu b)
      ∧ ∀ alu b, ¬ tableRow (.add (.add (.atom x) (.atom y)) (.const 1)) alu b := by
  cases x <;> cases y <;> simp [tableRow] at h ⊢

theorem not_tableRow_sub {x y : Expr} (h : ¬ ((∃ r, x = .atom (.bus r)) ∧ (y = .atom .h ∨ y = .const 1))) (alu b : Nat) :
    ¬ tableRow (.sub x y) alu b := by
  intro hrow
  simp only [tableRow, reduceCtorEq, Expr.sub.injEq, false_and, or_self, exists_false, false_or, or_false] at hrow
  rcases hrow with ⟨r, ⟨hx, hy⟩, -⟩ | ⟨r, ⟨hx, hy⟩, -⟩
  · exact h ⟨⟨r, hx⟩, .inl hy⟩
  · exact h ⟨⟨r, hx⟩, .inr hy⟩

theorem not_tableRow_neg {x : Expr} (hh : x ≠ .atom .h) (hone : x ≠ .const 1) (alu b : Nat) : ¬ tableRow (.neg x) alu b := by
  simp [tableRow, hh, hone]

/-- Settles O40: the codes of the table's rows give the rows' values, and the named forms are no rows. -/
theorem theExpressionCodesComputeTheExpression : Obligations.TheExpressionCodesComputeTheExpression := by
  refine ⟨fun e c h s free => exprValue_of_encodeExpr h s free, fun e h => encodeExpr_eq_none_of_foreign h, fun e => rfl, ?_⟩
  intro sra1 sll8 rejected
  have reject : ∀ {e : Expr}, shifted e = false → (∀ alu b, ¬ tableRow e alu b) → rejected e :=
    fun hshift h => encodeExpr_underShifts_eq_none hshift h sra1 sll8
  refine ⟨fun x y h => ?_, fun x y h => reject rfl (not_tableRow_sub h), fun x hh hone => reject rfl (not_tableRow_neg hh hone)⟩
  obtain ⟨hadd, hand, hor, haddOne⟩ := not_tableRow_of_atoms h
  exact ⟨reject rfl hadd, reject rfl hand, reject rfl hor, reject rfl haddOne⟩

end Sys2Proof
end

section
/-! PROOF. Family other, 46_microassembler.md sections 2 and 3: which lines are legal (R262 to R277), and the bits of a legal
line's word (R260, R266 to R277). -/

namespace Sys2Proof

open Sys2Proof.Machine Sys2Proof.Claims

-- ## At most one of a kind

/-- At most one element of a list passes a test exactly if no two of its places hold elements that do. -/
theorem countP_le_one_iff_pairwise {α : Type} (p : α → Bool) (l : List α) :
    l.countP p ≤ 1 ↔ l.Pairwise fun x y => ¬ (p x = true ∧ p y = true) := by
  induction l with
  | nil => simp
  | cons a l ih =>
    rw [List.pairwise_cons, ← ih]
    by_cases ha : p a = true
    · have hzero : l.countP p = 0 ↔ ∀ b ∈ l, ¬ p b = true := List.countP_eq_zero
      rw [List.countP_cons_of_pos ha]
      simp only [ha, true_and, ← hzero]
      omega
    · rw [List.countP_cons_of_neg ha]
      simp [ha]

/-- Of a kind that a list holds no two of, it holds at most one element. -/
theorem eq_of_pairwise_not_both {α : Type} {P : α → Prop} {l : List α} (h : l.Pairwise fun x y => ¬ (P x ∧ P y)) {x y : α}
    (hx : x ∈ l) (hy : y ∈ l) (hpx : P x) (hpy : P y) : x = y := by
  have hsymm : Std.Symm fun x y => ¬ (P x ∧ P y) := ⟨fun _ _ hno hboth => hno hboth.symm⟩
  by_contra hne
  exact h.forall hx hy hne ⟨hpx, hpy⟩

theorem isTransfer_iff (o : Operation) : o.isTransfer = true ↔ transfers o := by
  cases o <;> simp [Operation.isTransfer, transfers]

theorem isAssign_iff (o : Operation) : o.isAssign = true ↔ assigns o := by
  cases o <;> simp [Operation.isAssign, Operation.targets, assigns]

-- ## The legality rules (R262 to R277)

theorem countP_isReadWrite (ops : List Operation) : ops.countP Operation.isReadWrite = ops.count .read + ops.count .write := by
  induction ops with
  | nil => rfl
  | cons o ops ih =>
    rw [List.countP_cons, List.count_cons, List.count_cons, ih]
    cases o <;> simp [Operation.isReadWrite] <;> omega

theorem target_violation_eq_none_iff (x : Target) : x.violation = none ↔ ∃ r, x = .reg r := by
  cases x <;> simp [Target.violation]

theorem mem_targets {o : Operation} {x : Target} : x ∈ o.targets ↔ ∃ t ts e, o = .assign t ts e ∧ x ∈ t :: ts := by
  cases o <;> simp [Operation.targets]

theorem formViolation_eq_none_iff (o : Operation) : o.formViolation = none
    ↔ (∀ t ts e, o = .assign t ts e → ∃ c, encodeExpr e = some c) ∧ ∀ c, o = .indirectGoto c → c < 512 := by
  cases o <;> simp [Operation.formViolation, Option.isSome_iff_exists]

/-- Without two assignments, all the targets of a line are distinct if each assignment's are. -/
theorem targets_nodup_iff {ops : List Operation} (h : ops.Pairwise fun x y => ¬ (assigns x ∧ assigns y)) :
    (ops.flatMap Operation.targets).Nodup ↔ ∀ t ts e, Operation.assign t ts e ∈ ops → (t :: ts).Nodup := by
  have hdisjoint : ops.Pairwise (Function.onFun List.Disjoint Operation.targets) := by
    refine h.imp fun hno x hx hy => hno ⟨?_, ?_⟩
    · obtain ⟨t, ts, e, ho, -⟩ := mem_targets.mp hx
      exact ⟨t, ts, e, ho⟩
    · obtain ⟨t, ts, e, ho, -⟩ := mem_targets.mp hy
      exact ⟨t, ts, e, ho⟩
  rw [List.nodup_flatMap, and_iff_left hdisjoint]
  refine ⟨fun hall t ts e ho => hall _ ho, fun hall o ho => ?_⟩
  cases o with
  | assign t ts e => exact hall t ts e ho
  | _ => exact List.nodup_nil

/-- The violations of a line, list by list. -/
theorem lineViolations_eq_nil_iff (ops : List Operation) : lineViolations ops = []
    ↔ ops.countP Operation.isReadWrite ≤ 1 ∧ ops.count .fetch ≤ 1 ∧ ops.countP Operation.isTransfer ≤ 1
      ∧ ops.countP Operation.isAssign ≤ 1 ∧ (.empty ∈ ops ∨ .halt ∈ ops → ops.length ≤ 1)
      ∧ (∀ x ∈ ops.flatMap Operation.targets, x.violation = none) ∧ (ops.flatMap Operation.targets).Nodup
      ∧ ∀ o ∈ ops, o.formViolation = none := by
  have hle : ∀ n : Nat, ¬ 2 ≤ n ↔ n ≤ 1 := fun n => by omega
  have hnodup : ∀ l : List Target, (if l.Nodup then [] else [Violation.repeatedTarget]) = [] ↔ l.Nodup := by simp
  simp only [lineViolations, List.append_eq_nil_iff, List.filterMap_eq_nil_iff, ite_eq_right_iff, List.cons_ne_nil, imp_false,
    hle, hnodup, Bool.and_eq_true, Bool.or_eq_true, List.contains_iff_mem, decide_eq_true_eq, not_and, and_assoc]

theorem countP_isTransfer_le_one_iff (ops : List Operation) :
    ops.countP Operation.isTransfer ≤ 1 ↔ ops.Pairwise fun x y => ¬ (transfers x ∧ transfers y) := by
  simp only [countP_le_one_iff_pairwise, isTransfer_iff]

theorem countP_isAssign_le_one_iff (ops : List Operation) :
    ops.countP Operation.isAssign ≤ 1 ↔ ops.Pairwise fun x y => ¬ (assigns x ∧ assigns y) := by
  simp only [countP_le_one_iff_pairwise, isAssign_iff]

/-- All targets are registers if each assignment's are (R268). -/
theorem targets_writable_iff (ops : List Operation) : (∀ x ∈ ops.flatMap Operation.targets, x.violation = none)
    ↔ ∀ t ts e, Operation.assign t ts e ∈ ops → ∀ x ∈ t :: ts, ∃ r, x = .reg r := by
  simp only [List.mem_flatMap, mem_targets, target_violation_eq_none_iff]
  refine ⟨fun h t ts e ho x hx => h x ⟨_, ho, t, ts, e, rfl, hx⟩, ?_⟩
  rintro h x ⟨_, ho, t, ts, e, rfl, hx⟩
  exact h t ts e ho x hx

/-- A line breaks no rule of the encoder exactly if it is legal. -/
theorem lineViolations_eq_nil_iff_legal (ops : List Operation) : lineViolations ops = [] ↔ LegalLine ops := by
  rw [lineViolations_eq_nil_iff, countP_isReadWrite, countP_isTransfer_le_one_iff, countP_isAssign_le_one_iff,
    targets_writable_iff]
  constructor
  · rintro ⟨hrw, hfetch, htransfer, hassign, halone, htargets, hnodup, hform⟩
    exact {
      readOrWrite := hrw
      oneFetch := hfetch
      oneTransfer := htransfer
      oneAssignment := hassign
      alone := fun h => Nat.le_antisymm (halone h) (h.elim List.length_pos_of_mem List.length_pos_of_mem)
      writableTargets := htargets
      distinctTargets := (targets_nodup_iff hassign).mp hnodup
      legalExpression := fun t ts e ho => ((formViolation_eq_none_iff _).mp (hform _ ho)).1 t ts e rfl
      indirectInRange := fun c ho => ((formViolation_eq_none_iff _).mp (hform _ ho)).2 c rfl }
  · intro h
    refine ⟨h.readOrWrite, h.oneFetch, h.oneTransfer, h.oneAssignment, fun hm => (h.alone hm).le, h.writableTargets,
      (targets_nodup_iff h.oneAssignment).mpr h.distinctTargets, fun o ho => (formViolation_eq_none_iff o).mpr ⟨?_, ?_⟩⟩
    · rintro t ts e rfl
      exact h.legalExpression t ts e ho
    · rintro c rfl
      exact h.indirectInRange c ho

/-- Settles O48: the encoder's violations are the negations of the rules of R262 to R277. -/
theorem aLineIsEncodedExactlyWhereItIsLegal : Obligations.ALineIsEncodedExactlyWhereItIsLegal := by
  intro ops a
  rw [← lineViolations_eq_nil_iff_legal]
  refine ⟨fun hlegal hne => ⟨_, encodeLine_word.mpr ⟨hlegal, hne, rfl⟩⟩, fun hillegal => ?_⟩
  obtain ⟨v, vs, hvs⟩ := List.exists_cons_of_ne_nil hillegal
  exact ⟨v, vs, by rw [encodeLine, if_neg hillegal, hvs]⟩

-- ## The bits of a line's word (R266 to R277)

/-- The bits an expression's code sets (R271). -/
def codeSets (c : ExprCode) (q : Nat) : Bool :=
  (decide (q < 4) && c.bsrc.code.testBit q) || (decide (16 ≤ q ∧ q < 22) && c.alu.code.testBit (q - 16))
    || (decide (q = 22) && c.sra1) || (decide (q = 23) && c.sll8)

/-- The C bits of targets (R270). -/
def targetSets (targets : List Target) (q : Nat) : Bool :=
  (targets.filterMap Target.reg?).any fun r => decide (q = 7 + r.cBit)

/-- The bits an operation sets in the cleared word; an illegal expression sets none. -/
def sets (q : Nat) : Operation → Bool
  | .read => decide (q = 5)
  | .write => decide (q = 6)
  | .fetch => decide (q = 4)
  | .goto _ => false
  | .indirectGoto c => decide (q = 26) || (decide (27 ≤ q ∧ q < 36) && c.testBit (q - 27))
  | .condIf .z _ _ => decide (q = 24)
  | .condIf .n _ _ => decide (q = 25)
  | .halt => decide (q < 4)
  | .assign t ts e => targetSets (t :: ts) q || (encodeExpr e).any (codeSets · q)
  | .empty => false

/-- The bits an operation writes whatever they were. -/
def overwrites (q : Nat) : Operation → Bool
  | .indirectGoto _ => decide (27 ≤ q ∧ q < 36)
  | .halt => decide (q < 4)
  | .assign _ _ _ => decide (q < 4 ∨ 16 ≤ q ∧ q < 22)
  | _ => false

theorem cBit_lt (r : Reg) : r.cBit < 9 := by cases r <;> decide

/-- Targets set no bit outside the C field. -/
theorem targetSets_eq_false (targets : List Target) {q : Nat} (hq : q < 7 ∨ 16 ≤ q) : targetSets targets q = false := by
  refine List.any_eq_false.mpr fun r _ hr => ?_
  have := cBit_lt r
  have := of_decide_eq_true hr
  omega

theorem getBit_foldl_setBit (rs : List Reg) (w : ControlBits) (q : Nat) :
    getBit (rs.foldl (fun w r => setBit w (7 + r.cBit)) w) q
      = (getBit w q || rs.any fun r => decide (q = 7 + r.cBit)) := by
  induction rs generalizing w with
  | nil => simp
  | cons r rs ih =>
    have hr := cBit_lt r
    rw [List.foldl_cons, ih, getBit_setBit w (by omega), List.any_cons]
    cases getBit w q <;> simp [Bool.or_comm]

theorem getBit_ite_setBit (w : ControlBits) (b : Bool) {p : Nat} (hp : p < 40) (q : Nat) :
    getBit (if b then setBit w p else w) q = (decide (q = p) && b || getBit w q) := by
  cases b <;> simp [getBit_setBit w hp]

/-- An assignment's bits: C bits are added, the B and ALU fields replaced, shift bits added. -/
theorem getBit_encodeAssign (w : ControlBits) (targets : List Target) {e : Expr} {c : ExprCode} (h : encodeExpr e = some c)
    (q : Nat) : getBit (encodeAssign w targets e) q
      = (!decide (q < 4 ∨ 16 ≤ q ∧ q < 22) && getBit w q || targetSets targets q || codeSets c q) := by
  simp only [encodeAssign, h, getBit_ite_setBit _ _ (show 22 < 40 by decide), getBit_ite_setBit _ _ (show 23 < 40 by decide)]
  rw [getBit_setBits _ _ (by decide), getBit_setBits _ _ (by decide), getBit_foldl_setBit, ← targetSets]
  have hdest := targetSets_eq_false targets (q := q)
  by_cases hb : q < 4
  · have h16 : ¬ 16 ≤ q := by omega
    have h22 : q ≠ 22 := by omega
    have h23 : q ≠ 23 := by omega
    simp [codeSets, hdest (.inl (by omega)), hb, h16, h22, h23]
  · by_cases ha : 16 ≤ q ∧ q < 22
    · have h22 : q ≠ 22 := by omega
      have h23 : q ≠ 23 := by omega
      simp [codeSets, hdest (.inr ha.1), hb, ha, h22, h23]
    · simp [codeSets, hb, ha]
      ac_rfl

/-- What one operation of a legal form does to a bit: it is kept or replaced, and set where the operation sets it. -/
theorem getBit_encodeOperation {o : Operation} (h : o.formViolation = none) (w : ControlBits) (q : Nat) :
    getBit (encodeOperation w o) q = (!overwrites q o && getBit w q || sets q o) := by
  cases o with
  | read => simp [encodeOperation, getBit_setBit w, overwrites, sets, Bool.or_comm]
  | write => simp [encodeOperation, getBit_setBit w, overwrites, sets, Bool.or_comm]
  | fetch => simp [encodeOperation, getBit_setBit w, overwrites, sets, Bool.or_comm]
  | goto l => simp [encodeOperation, overwrites, sets]
  | empty => simp [encodeOperation, overwrites, sets]
  | condIf c t f => cases c <;> simp [encodeOperation, getBit_setBit w, overwrites, sets, Bool.or_comm]
  | halt =>
    have h15 : q < 4 → (15 : Nat).testBit q = true := by intro hq; interval_cases q <;> rfl
    by_cases hq : q < 4 <;> simp [encodeOperation, getBit_setBits w _ (show 0 + 4 ≤ 40 by decide), overwrites, sets, hq, h15]
  | indirectGoto c =>
    rw [encodeOperation, getBit_setBits _ _ (by decide), getBit_setBit w (by decide)]
    by_cases hq : 27 ≤ q ∧ q < 36
    · have h26 : q ≠ 26 := by omega
      simp [overwrites, sets, hq, h26]
    · simp [overwrites, sets, hq, Bool.or_comm]
  | assign t ts e =>
    obtain ⟨c, hc⟩ := ((formViolation_eq_none_iff _).mp h).1 t ts e rfl
    rw [encodeOperation, getBit_encodeAssign w _ hc, overwrites, sets, hc, Option.any_some, Bool.or_assoc]

/-- Operations none of which overwrites a bit another one sets leave every bit that one of them sets, and no other. -/
theorem getBit_foldl_encodeOperation {q : Nat} {ops : List Operation} (hform : ∀ o ∈ ops, o.formViolation = none)
    (hpair : ops.Pairwise fun x y => overwrites q y = true → sets q x = false) {w : ControlBits}
    (hw : ∀ o ∈ ops, overwrites q o = true → getBit w q = false) :
    getBit (ops.foldl encodeOperation w) q = (getBit w q || ops.any (sets q)) := by
  induction ops generalizing w with
  | nil => simp
  | cons o ops ih =>
    rw [List.pairwise_cons] at hpair
    have hbit : getBit (encodeOperation w o) q = (getBit w q || sets q o) := by
      rw [getBit_encodeOperation (hform o List.mem_cons_self)]
      cases hov : overwrites q o with
      | false => rfl
      | true => rw [hw o List.mem_cons_self hov]; rfl
    have hnext : ∀ o' ∈ ops, overwrites q o' = true → getBit (encodeOperation w o) q = false := by
      intro o' ho' hov
      rw [hbit, hw o' (List.mem_cons_of_mem o ho') hov, hpair.1 o' ho' hov]
      rfl
    rw [List.foldl_cons, ih (fun o' ho' => hform o' (List.mem_cons_of_mem o ho')) hpair.2 hnext, hbit, List.any_cons,
      Bool.or_assoc]

-- ## Which operation sets a bit

/-- The one memory or jump bit an operation stands for. -/
def ownBit : Operation → Option Nat
  | .read => some 5
  | .write => some 6
  | .fetch => some 4
  | .condIf .z _ _ => some 24
  | .condIf .n _ _ => some 25
  | .indirectGoto _ => some 26
  | _ => none

theorem range_of_ownBit {o : Operation} {q : Nat} (h : ownBit o = some q) : 4 ≤ q ∧ q < 7 ∨ 24 ≤ q ∧ q < 27 := by
  cases o with
  | condIf c t f => cases c <;> simp [ownBit] at h <;> omega
  | _ => simp [ownBit] at h <;> omega

/-- Which operations set bits where: assignments outside the memory bits and below the jump bits, a halt in the B field, an
indirect goto in ADDR, and each operation its own bit. -/
theorem sets_cases {o : Operation} {q : Nat} (h : sets q o = true) :
    (assigns o ∧ q < 24 ∧ ¬ (4 ≤ q ∧ q < 7)) ∨ (o = .halt ∧ q < 4) ∨ (∃ c, o = .indirectGoto c ∧ 27 ≤ q ∧ q < 36)
      ∨ ownBit o = some q := by
  cases o with
  | assign t ts e =>
    refine .inl ⟨⟨t, ts, e, rfl⟩, ?_⟩
    rw [sets, Bool.or_eq_true] at h
    rcases h with h | h
    · have hout : ¬ (q < 7 ∨ 16 ≤ q) := fun hout => absurd h (by rw [targetSets_eq_false _ hout]; decide)
      omega
    · cases hc : encodeExpr e with
      | none => simp [hc] at h
      | some c =>
        simp only [hc, Option.any_some, codeSets, Bool.or_eq_true, Bool.and_eq_true, decide_eq_true_eq] at h
        omega
  | halt => exact .inr (.inl ⟨rfl, of_decide_eq_true h⟩)
  | indirectGoto c =>
    simp only [sets, Bool.or_eq_true, Bool.and_eq_true, decide_eq_true_eq] at h
    rcases h with rfl | ⟨hq, -⟩
    · exact .inr (.inr (.inr rfl))
    · exact .inr (.inr (.inl ⟨c, rfl, hq⟩))
  | condIf c t f => cases c <;> exact .inr (.inr (.inr (congrArg some (of_decide_eq_true h).symm)))
  | goto l => cases h
  | empty => cases h
  | _ => exact .inr (.inr (.inr (congrArg some (of_decide_eq_true h).symm)))

/-- An operation sets its own bit. -/
theorem sets_of_ownBit {o : Operation} {q : Nat} (h : ownBit o = some q) : sets q o = true := by
  cases o with
  | condIf c t f => cases c <;> cases h <;> rfl
  | _ => cases h <;> rfl

theorem overwrites_cases {o : Operation} {q : Nat} (h : overwrites q o = true) :
    (assigns o ∧ (q < 4 ∨ 16 ≤ q ∧ q < 22)) ∨ o = .halt ∨ (∃ c, o = .indirectGoto c ∧ 27 ≤ q ∧ q < 36) := by
  cases o with
  | assign t ts e => exact .inl ⟨⟨t, ts, e, rfl⟩, of_decide_eq_true h⟩
  | halt => exact .inr (.inl rfl)
  | indirectGoto c => exact .inr (.inr ⟨c, rfl, of_decide_eq_true h⟩)
  | _ => cases h

theorem transfers_indirectGoto (c : Nat) : transfers (.indirectGoto c) := .inr (.inl ⟨c, rfl⟩)

/-- In a line without a halt, what a transfer or an assignment overwrites is set by no operation of another kind. -/
theorem sets_eq_false_of_overwrites {x y : Operation} {q : Nat} (hassign : ¬ (assigns x ∧ assigns y))
    (htransfer : ¬ (transfers x ∧ transfers y)) (hx : x ≠ .halt) (hy : y ≠ .halt) (hov : overwrites q y = true) :
    sets q x = false := by
  refine Bool.eq_false_iff.mpr fun hs => ?_
  rcases overwrites_cases hov with ⟨hassigns, hq⟩ | hhalt | ⟨c, rfl, hq⟩
  · rcases sets_cases hs with ⟨hassigns', -⟩ | ⟨hhalt, -⟩ | ⟨_, -, hq'⟩ | hown
    · exact hassign ⟨hassigns', hassigns⟩
    · exact hx hhalt
    · omega
    · have := range_of_ownBit hown
      omega
  · exact hy hhalt
  · rcases sets_cases hs with ⟨-, hq'⟩ | ⟨-, hq'⟩ | ⟨c', hindirect, -⟩ | hown
    · omega
    · omega
    · exact htransfer ⟨hindirect ▸ transfers_indirectGoto c', transfers_indirectGoto c⟩
    · have := range_of_ownBit hown
      omega

/-- A halt is the only operation of its line (R265). -/
theorem eq_halt_of_mem {ops : List Operation} (h : LegalLine ops) (hmem : .halt ∈ ops) : ops = [.halt] := by
  obtain ⟨o, rfl⟩ := List.length_eq_one_iff.mp (h.alone (.inr hmem))
  rw [List.mem_singleton.mp hmem]

/-- A legal line's word before its address is resolved has the bits of its operations. -/
theorem getBit_lineWord {ops : List Operation} (h : LegalLine ops) (q : Nat) :
    getBit (lineWord ops) q = ops.any (sets q) := by
  have hform : ∀ o ∈ ops, o.formViolation = none := by
    obtain ⟨-, -, -, -, -, -, -, hform⟩ := (lineViolations_eq_nil_iff ops).mp ((lineViolations_eq_nil_iff_legal ops).mpr h)
    exact hform
  have hpair : ops.Pairwise fun x y => overwrites q y = true → sets q x = false := by
    by_cases hhalt : .halt ∈ ops
    · rw [eq_halt_of_mem h hhalt]
      exact List.pairwise_singleton _ _
    · refine (h.oneAssignment.and h.oneTransfer).imp_of_mem fun hx hy ⟨hassign, htransfer⟩ hov => ?_
      exact sets_eq_false_of_overwrites hassign htransfer (fun he => hhalt (he ▸ hx)) (fun he => hhalt (he ▸ hy)) hov
  rw [lineWord, getBit_foldl_encodeOperation hform hpair fun _ _ _ => getBit_clearWord q, getBit_clearWord, Bool.false_or]

/-- Outside the address field, a legal line's word has the bits of its operations. -/
theorem getBit_addressedWord {ops : List Operation} (h : LegalLine ops) (a : Option Nat) {q : Nat}
    (hq : ¬ (27 ≤ q ∧ q < 36)) : getBit (addressedWord ops a) q = true ↔ ∃ o ∈ ops, sets q o = true := by
  have hword : getBit (addressedWord ops a) q = getBit (lineWord ops) q := by
    unfold addressedWord
    split
    · rfl
    · cases a with
      | none => rfl
      | some x => exact (getBit_setBits _ x (by decide) q).trans (if_neg (by omega))
  rw [hword, getBit_lineWord h, List.any_eq_true]

theorem eq_of_assigns {ops : List Operation} (h : LegalLine ops) {o o' : Operation} (ho : o ∈ ops) (ho' : o' ∈ ops)
    (hassigns : assigns o) (hassigns' : assigns o') : o = o' :=
  eq_of_pairwise_not_both h.oneAssignment ho ho' hassigns hassigns'

theorem eq_of_transfers {ops : List Operation} (h : LegalLine ops) {o o' : Operation} (ho : o ∈ ops) (ho' : o' ∈ ops)
    (htransfers : transfers o) (htransfers' : transfers o') : o = o' :=
  eq_of_pairwise_not_both h.oneTransfer ho ho' htransfers htransfers'

-- ## Memory bits and jump bits (R272, R275 to R277)

/-- The memory and jump bits are set by the operations they stand for. -/
theorem sets_iff_ownBit {q : Nat} (hq : 4 ≤ q ∧ q < 7 ∨ 24 ≤ q ∧ q < 27) (o : Operation) :
    sets q o = true ↔ ownBit o = some q := by
  refine ⟨fun h => ?_, sets_of_ownBit⟩
  rcases sets_cases h with ⟨-, hq'⟩ | ⟨-, hq'⟩ | ⟨_, -, hq'⟩ | hown
  · omega
  · omega
  · omega
  · exact hown

theorem getBit_iff_ownBit {ops : List Operation} (h : LegalLine ops) (a : Option Nat) {q : Nat}
    (hq : 4 ≤ q ∧ q < 7 ∨ 24 ≤ q ∧ q < 27) : getBit (addressedWord ops a) q = true ↔ ∃ o ∈ ops, ownBit o = some q := by
  simp only [getBit_addressedWord h a (show ¬ (27 ≤ q ∧ q < 36) by omega), sets_iff_ownBit hq]

/-- The bit of an operation without operands. -/
theorem getBit_eq_contains {ops : List Operation} (h : LegalLine ops) (a : Option Nat) {q : Nat} {o : Operation}
    (hq : 4 ≤ q ∧ q < 7) (ho : ∀ x, ownBit x = some q ↔ x = o) : getBit (addressedWord ops a) q = ops.contains o := by
  rw [Bool.eq_iff_iff, getBit_iff_ownBit h a (.inl hq), List.contains_iff_mem]
  simp only [ho, exists_eq_right]

/-- Whose bit each memory and jump bit is. -/
theorem ownBit_eq_some_iff : (∀ x, ownBit x = some 5 ↔ x = .read) ∧ (∀ x, ownBit x = some 6 ↔ x = .write)
    ∧ (∀ x, ownBit x = some 4 ↔ x = .fetch) ∧ (∀ x, ownBit x = some 24 ↔ ∃ t f, x = .condIf .z t f)
    ∧ (∀ x, ownBit x = some 25 ↔ ∃ t f, x = .condIf .n t f) ∧ ∀ x, ownBit x = some 26 ↔ ∃ c, x = .indirectGoto c := by
  simp only [← forall_and]
  intro x
  cases x with
  | condIf c t f => cases c <;> simp [ownBit]
  | _ => simp [ownBit]

theorem transfers_of_ownBit {o : Operation} {q : Nat} (hq : 24 ≤ q) (h : ownBit o = some q) : transfers o := by
  rw [← isTransfer_iff]
  cases o <;> simp [ownBit, Operation.isTransfer] at h ⊢ <;> omega

/-- Only one jump bit is set, since a line has one transfer (R264). -/
theorem jump_bits_unique {ops : List Operation} (h : LegalLine ops) (a : Option Nat) {q q' : Nat} (hq : 24 ≤ q ∧ q < 27)
    (hq' : 24 ≤ q' ∧ q' < 27) (hb : getBit (addressedWord ops a) q = true) (hb' : getBit (addressedWord ops a) q' = true) :
    q = q' := by
  obtain ⟨o, ho, hown⟩ := (getBit_iff_ownBit h a (.inr hq)).mp hb
  obtain ⟨o', ho', hown'⟩ := (getBit_iff_ownBit h a (.inr hq')).mp hb'
  rw [eq_of_transfers h ho ho' (transfers_of_ownBit hq.1 hown) (transfers_of_ownBit hq'.1 hown'), hown'] at hown
  exact (Option.some.inj hown).symm

theorem jump_bits_le_one {ops : List Operation} (h : LegalLine ops) (a : Option Nat) :
    (getBit (addressedWord ops a) 24).toNat + (getBit (addressedWord ops a) 25).toNat
      + (getBit (addressedWord ops a) 26).toNat ≤ 1 := by
  have hunique := fun {q q'} => jump_bits_unique h a (q := q) (q' := q')
  cases hz : getBit (addressedWord ops a) 24 <;> cases hn : getBit (addressedWord ops a) 25 <;>
    cases hj : getBit (addressedWord ops a) 26 <;> simp
  · exact absurd (hunique (by decide) (by decide) hn hj) (by decide)
  · exact absurd (hunique (by decide) (by decide) hz hj) (by decide)
  · exact absurd (hunique (by decide) (by decide) hz hn) (by decide)
  · exact absurd (hunique (by decide) (by decide) hz hn) (by decide)

theorem not_read_and_write {ops : List Operation} (h : LegalLine ops) (hr : .read ∈ ops) (hw : .write ∈ ops) : False := by
  have hread := List.count_pos_iff.mpr hr
  have hwrite := List.count_pos_iff.mpr hw
  have := h.readOrWrite
  omega

-- ## The C bits (R270)

theorem getElem?_cDests_cBit (r : Reg) : cDests[r.cBit]? = some r := by cases r <;> rfl

theorem cBit_inj {r r' : Reg} (h : r.cBit = r'.cBit) : r = r' :=
  Option.some.inj (by rw [← getElem?_cDests_cBit r, h, getElem?_cDests_cBit r'])

theorem codeSets_cBit (c : ExprCode) (r : Reg) : codeSets c (7 + r.cBit) = false := by
  cases r <;> rfl

/-- A C bit is set by an assignment to its register. -/
theorem sets_cBit_iff (r : Reg) (o : Operation) :
    sets (7 + r.cBit) o = true ↔ ∃ t ts e, o = .assign t ts e ∧ Target.reg r ∈ t :: ts := by
  have hr := cBit_lt r
  cases o with
  | assign t ts e =>
    have hcode : (encodeExpr e).any (codeSets · (7 + r.cBit)) = false := by cases encodeExpr e <;> simp [codeSets_cBit]
    have hreg : ∀ x : Target, x.reg? = some r ↔ x = .reg r := by intro x; cases x <;> simp [Target.reg?]
    have hmem : r ∈ (t :: ts).filterMap Target.reg? ↔ Target.reg r ∈ t :: ts := by
      rw [List.mem_filterMap]
      simp only [hreg, exists_eq_right]
    rw [sets, hcode, Bool.or_false, targetSets, List.any_eq_true]
    refine ⟨?_, ?_⟩
    · rintro ⟨r', hr', heq⟩
      have hsame : r = r' := cBit_inj (Nat.add_left_cancel (of_decide_eq_true heq))
      exact ⟨t, ts, e, rfl, hmem.mp (hsame ▸ hr')⟩
    · rintro ⟨_, _, _, heq, h⟩
      cases heq
      exact ⟨r, hmem.mpr h, decide_eq_true rfl⟩
  | condIf c t f => cases c <;> simp [sets] <;> omega
  | _ => simp [sets] <;> omega

-- ## The fields of an expression, and the halt marker (R267, R271)

/-- A field is a number that fits and has its bits. -/
theorem field_eq_of_bits {w : ControlBits} {p n v : Nat} (hv : v < 2 ^ n) (h : ∀ k, k < n → getBit w (p + k) = v.testBit k) :
    field w p n = v := by
  refine Nat.eq_of_testBit_eq fun k => ?_
  by_cases hk : k < n
  · rw [testBit_field_of_lt w p hk, h k hk]
  · rw [Nat.testBit_lt_two_pow (Nat.lt_of_lt_of_le (field_lt w p n) (Nat.pow_le_pow_right (by decide) (by omega))),
      Nat.testBit_lt_two_pow (Nat.lt_of_lt_of_le hv (Nat.pow_le_pow_right (by decide) (by omega)))]

/-- The B, ALU and shift fields are set by an assignment, or the B field by a halt. -/
theorem assigns_or_halt_of_sets {o : Operation} {q : Nat} (hq : q < 4 ∨ 16 ≤ q ∧ q < 24) (h : sets q o = true) :
    assigns o ∨ o = .halt ∧ q < 4 := by
  rcases sets_cases h with ⟨hassigns, -⟩ | hhalt | ⟨_, -, hq'⟩ | hown
  · exact .inl hassigns
  · exact .inr hhalt
  · omega
  · have := range_of_ownBit hown
    omega

theorem halt_not_mem_of_assigns {ops : List Operation} (h : LegalLine ops) {o : Operation} (ho : o ∈ ops)
    (hassigns : assigns o) : .halt ∉ ops := by
  intro hhalt
  rw [eq_halt_of_mem h hhalt, List.mem_singleton] at ho
  obtain ⟨t, ts, e, he⟩ := hassigns
  cases ho.symm.trans he

/-- The bits of the B, ALU and shift fields are those of the assignment's expression. -/
theorem getBit_eq_codeSets {ops : List Operation} (h : LegalLine ops) (a : Option Nat) {t : Target} {ts : List Target}
    {e : Expr} {c : ExprCode} (ho : Operation.assign t ts e ∈ ops) (hc : encodeExpr e = some c) {q : Nat}
    (hq : q < 4 ∨ 16 ≤ q ∧ q < 24) : getBit (addressedWord ops a) q = codeSets c q := by
  have hsets : sets q (.assign t ts e) = codeSets c q := by
    rw [sets, targetSets_eq_false _ (by omega), hc, Bool.false_or, Option.any_some]
  rw [← hsets, Bool.eq_iff_iff, getBit_addressedWord h a (by omega)]
  refine ⟨?_, fun hset => ⟨_, ho, hset⟩⟩
  rintro ⟨o, hmem, hset⟩
  rcases assigns_or_halt_of_sets hq hset with hassigns | ⟨rfl, -⟩
  · rwa [← eq_of_assigns h hmem ho hassigns ⟨t, ts, e, rfl⟩]
  · exact absurd hmem (halt_not_mem_of_assigns h ho ⟨t, ts, e, rfl⟩)

/-- The fields of an assignment's expression (R271). -/
theorem fields_of_assign {ops : List Operation} (h : LegalLine ops) (a : Option Nat) {t : Target} {ts : List Target}
    {e : Expr} {c : ExprCode} (ho : Operation.assign t ts e ∈ ops) (hc : encodeExpr e = some c) :
    field (addressedWord ops a) 16 6 = c.alu.code ∧ field (addressedWord ops a) 0 4 = c.bsrc.code
      ∧ getBit (addressedWord ops a) 22 = c.sra1 ∧ getBit (addressedWord ops a) 23 = c.sll8 := by
  have hbits := fun {q} => getBit_eq_codeSets h a ho hc (q := q)
  refine ⟨field_eq_of_bits c.alu.code_lt fun k hk => ?alu,
    field_eq_of_bits (Nat.lt_trans c.bsrc.code_lt (by decide)) fun k hk => ?bsrc, ?sra1, ?sll8⟩
  case alu =>
    have h4 : ¬ 16 + k < 4 := by omega
    have h22 : 16 + k < 22 := by omega
    have h23 : 16 + k ≠ 23 := by omega
    rw [hbits (by omega)]
    simp [codeSets, h4, h22, h22.ne, h23]
  case bsrc =>
    have h16 : ¬ 16 ≤ k := by omega
    have h22 : k ≠ 22 := by omega
    have h23 : k ≠ 23 := by omega
    rw [hbits (by omega), Nat.zero_add]
    simp [codeSets, hk, h16, h22, h23]
  case sra1 => exact (hbits (by decide)).trans (by simp [codeSets])
  case sll8 => exact (hbits (by decide)).trans (by simp [codeSets])

/-- A field outside the address field is 0 if no operation sets a bit of it. -/
theorem field_addressedWord_eq_zero {ops : List Operation} (h : LegalLine ops) (a : Option Nat) {p n : Nat}
    (hp : p + n ≤ 27 ∨ 36 ≤ p) (hsets : ∀ o ∈ ops, ∀ k, k < n → sets (p + k) o = false) :
    field (addressedWord ops a) p n = 0 := by
  refine field_eq_of_bits (Nat.two_pow_pos n) fun k hk => ?_
  rw [Nat.zero_testBit, Bool.eq_false_iff, ne_eq, getBit_addressedWord h a (by omega)]
  rintro ⟨o, ho, hset⟩
  simp [hsets o ho k hk] at hset

/-- Without an assignment, the B, ALU and shift fields are 0 but for a halt's B field. -/
theorem field_eq_zero_of_no_assign {ops : List Operation} (h : LegalLine ops) (a : Option Nat) (hno : ∀ o ∈ ops, ¬ assigns o)
    {p n : Nat} (hp : p + n ≤ 4 ∧ .halt ∉ ops ∨ 16 ≤ p ∧ p + n ≤ 24) : field (addressedWord ops a) p n = 0 := by
  refine field_addressedWord_eq_zero h a (by omega) fun o ho k hk => Bool.eq_false_iff.mpr fun hset => ?_
  rcases assigns_or_halt_of_sets (by omega) hset with hassigns | ⟨rfl, hlt⟩
  · exact hno o ho hassigns
  · rcases hp with ⟨-, hhalt⟩ | hp
    · exact hhalt ho
    · omega

theorem addressedWord_halt (a : Option Nat) : addressedWord [.halt] a = 15#40 := by
  have hword : lineWord [.halt] = 15#40 := by decide
  exact hword

/-- Without a halt, the B field is a source's (R266). -/
theorem field_b_lt_of_no_halt {ops : List Operation} (h : LegalLine ops) (a : Option Nat) (hhalt : .halt ∉ ops) :
    field (addressedWord ops a) 0 4 < 9 := by
  by_cases hassign : ∃ o ∈ ops, assigns o
  · obtain ⟨o, ho, t, ts, e, rfl⟩ := hassign
    obtain ⟨c, hc⟩ := h.legalExpression t ts e ho
    obtain ⟨-, hbsrc, -, -⟩ := fields_of_assign h a ho hc
    exact hbsrc ▸ c.bsrc.code_lt
  · have hno : ∀ o ∈ ops, ¬ assigns o := fun o ho hassigns => hassign ⟨o, ho, hassigns⟩
    rw [field_eq_zero_of_no_assign h a hno (.inl ⟨by decide, hhalt⟩)]
    decide

theorem field_b_eq_15_iff {ops : List Operation} (h : LegalLine ops) (a : Option Nat) :
    field (addressedWord ops a) 0 4 = 15 ↔ .halt ∈ ops := by
  refine ⟨fun h15 => ?_, fun hhalt => ?_⟩
  · by_contra hhalt
    have := field_b_lt_of_no_halt h a hhalt
    omega
  · rw [eq_halt_of_mem h hhalt, addressedWord_halt]
    decide

-- ## The address field (R275 to R278, R314)

/-- An indirect goto's constant. -/
theorem field_addr_of_indirect {ops : List Operation} (h : LegalLine ops) (a : Option Nat) {c : Nat}
    (ho : .indirectGoto c ∈ ops) : field (addressedWord ops a) 27 9 = c := by
  have hfixed : ops.any Operation.fixesAddress = true := List.any_eq_true.mpr ⟨_, ho, rfl⟩
  have hword : addressedWord ops a = lineWord ops := if_pos hfixed
  rw [hword]
  refine field_eq_of_bits (h.indirectInRange c ho) fun k hk => ?_
  have hset : sets (27 + k) (.indirectGoto c) = c.testBit k := by
    have h26 : 27 + k ≠ 26 := by omega
    have h36 : 27 + k < 36 := by omega
    simp [sets, h26, h36]
  rw [getBit_lineWord h, ← hset, Bool.eq_iff_iff, List.any_eq_true]
  refine ⟨?_, fun hs => ⟨_, ho, hs⟩⟩
  rintro ⟨o, hmem, hs⟩
  rcases sets_cases hs with ⟨-, hq⟩ | ⟨-, hq⟩ | ⟨c', rfl, -⟩ | hown
  · omega
  · omega
  · rwa [← eq_of_transfers h hmem ho (transfers_indirectGoto c') (transfers_indirectGoto c)]
  · have := range_of_ownBit hown
    omega

/-- The successor's address. -/
theorem field_addr_of_successor {ops : List Operation} (hhalt : .halt ∉ ops) (hindirect : ∀ c, .indirectGoto c ∉ ops) {x : Nat}
    (hx : x < 512) : field (addressedWord ops (some x)) 27 9 = x := by
  have hfree : ¬ ops.any Operation.fixesAddress = true := by
    rw [List.any_eq_true]
    rintro ⟨o, ho, hfixes⟩
    cases o with
    | indirectGoto c => exact hindirect c ho
    | halt => exact hhalt ho
    | _ => cases hfixes
  have hword : addressedWord ops (some x) = withAddress (lineWord ops) x := if_neg hfree
  rw [hword, withAddress, field_setBits _ x (by decide), Nat.mod_eq_of_lt (show x < 2 ^ 9 from hx)]

theorem sets_unused (o : Operation) (k : Nat) : sets (36 + k) o = false := by
  refine Bool.eq_false_iff.mpr fun hs => ?_
  rcases sets_cases hs with ⟨-, hq⟩ | ⟨-, hq⟩ | ⟨_, -, hq⟩ | hown
  · omega
  · omega
  · omega
  · have := range_of_ownBit hown
    omega

/-- Settles O39: each bit of a legal line's word is set by the operations that set it, of which the legality rules leave at most
one where it matters. -/
theorem anEncodedLineHoldsExactlyItsOperations : Obligations.AnEncodedLineHoldsExactlyItsOperations := by
  refine ⟨fun a => rfl, fun ops a w hw => ?_⟩
  obtain ⟨hviolations, -, rfl⟩ := encodeLine_word.mp hw
  have h := (lineViolations_eq_nil_iff_legal ops).mp hviolations
  obtain ⟨read_iff, write_iff, fetch_iff, jamz_iff, jamn_iff, jmpc_iff⟩ := ownBit_eq_some_iff
  have hread := getBit_eq_contains h a (by decide) read_iff
  have hwrite := getBit_eq_contains h a (by decide) write_iff
  refine ⟨hread, hwrite, getBit_eq_contains h a (by decide) fetch_iff, ?exclusive, fun r => ?cBits,
    fun t ts e ho => ?assigned, fun hno => ?unassigned, ?jamz, ?jamn, ?jmpc, jump_bits_le_one h a,
    fun c ho => field_addr_of_indirect h a ho, fun hhalt hindirect x hx ha => ha ▸ field_addr_of_successor hhalt hindirect hx,
    field_b_eq_15_iff h a, fun hhalt => ?halt, field_b_lt_of_no_halt h a,
    field_addressedWord_eq_zero h a (by decide) fun o _ k _ => sets_unused o k⟩
  case exclusive =>
    rw [hread, hwrite, List.contains_iff_mem, List.contains_iff_mem]
    exact fun hboth => not_read_and_write h hboth.1 hboth.2
  case cBits =>
    rw [getBit_addressedWord h a (by have := cBit_lt r; omega)]
    simp only [sets_cBit_iff]
    refine ⟨?_, fun ⟨t, ts, e, ho, hr⟩ => ⟨_, ho, t, ts, e, rfl, hr⟩⟩
    rintro ⟨_, ho, t, ts, e, rfl, hr⟩
    exact ⟨t, ts, e, ho, hr⟩
  case assigned =>
    obtain ⟨c, hc⟩ := h.legalExpression t ts e ho
    exact ⟨c, hc, fields_of_assign h a ho hc⟩
  case unassigned =>
    have hno' : ∀ o ∈ ops, ¬ assigns o := by
      rintro _ ho ⟨t, ts, e, rfl⟩
      exact hno t ts e ho
    exact ⟨field_eq_zero_of_no_assign h a hno' (.inr (by decide)), field_eq_zero_of_no_assign h a hno' (.inr (by decide)),
      fun hhalt => field_eq_zero_of_no_assign h a hno' (.inl ⟨by decide, hhalt⟩)⟩
  case jamz =>
    simp only [getBit_iff_ownBit h a (show 4 ≤ 24 ∧ 24 < 7 ∨ 24 ≤ 24 ∧ 24 < 27 by decide), jamz_iff]
    exact ⟨fun ⟨_, ho, t, f, heq⟩ => ⟨t, f, heq ▸ ho⟩, fun ⟨t, f, ho⟩ => ⟨_, ho, t, f, rfl⟩⟩
  case jamn =>
    simp only [getBit_iff_ownBit h a (show 4 ≤ 25 ∧ 25 < 7 ∨ 24 ≤ 25 ∧ 25 < 27 by decide), jamn_iff]
    exact ⟨fun ⟨_, ho, t, f, heq⟩ => ⟨t, f, heq ▸ ho⟩, fun ⟨t, f, ho⟩ => ⟨_, ho, t, f, rfl⟩⟩
  case jmpc =>
    simp only [getBit_iff_ownBit h a (show 4 ≤ 26 ∧ 26 < 7 ∨ 24 ≤ 26 ∧ 26 < 27 by decide), jmpc_iff]
    exact ⟨fun ⟨_, ho, c, heq⟩ => ⟨c, heq ▸ ho⟩, fun ⟨c, ho⟩ => ⟨_, ho, c, rfl⟩⟩
  case halt => rw [eq_halt_of_mem h hhalt, addressedWord_halt]

end Sys2Proof
end

section
/-! PROOF. Family other, 46_microassembler.md section 1 and 47_placement_image.md: labels and their lines, what is reported, the
pins, and the words of an assembled store (R260, R261, R311, R314, R316, R317). -/

namespace Sys2Proof

open Sys2Proof.Machine Sys2Proof.Claims

-- ## Lines and labels (R260)

theorem bearing_iff {p : Program} {j : Nat} : bearing p j = true ↔ ∃ ln, p[j]? = some ln ∧ ln.ops ≠ [] := by
  unfold bearing
  split <;> simp_all

theorem opsAt_of_line {p : Program} {j : Nat} {ln : Line} (h : p[j]? = some ln) : opsAt p j = ln.ops := by
  simp only [opsAt, h]

theorem nextBearing_eq_some_iff {p : Program} {i j : Nat} : nextBearing p i = some j
    ↔ i ≤ j ∧ bearing p j = true ∧ ∀ k, i ≤ k → k < j → bearing p k = false := by
  rw [nextBearing, List.find?_range_eq_some]
  simp only [Bool.and_eq_true, decide_eq_true_eq, List.mem_range, Bool.not_eq_true', Bool.and_eq_false_imp, and_assoc]
  refine ⟨fun ⟨hle, hb, _, hmin⟩ => ⟨hle, hb, fun k hk hkj => hmin k hkj hk⟩, fun ⟨hle, hb, hmin⟩ => ⟨hle, hb, ?_, ?_⟩⟩
  · exact lt_length_of_bearing hb
  · exact fun k hkj hk => hmin k hk hkj

theorem hasLabel_iff {p : Program} {l : Label} {k : Nat} :
    hasLabel p l k = true ↔ ∃ ln pin, p[k]? = some ln ∧ ln.label = some (l, pin) := by
  unfold hasLabel
  split
  · next l' pin ops h => simp [h, eq_comm]
  · next hno =>
    refine ⟨nofun, fun ⟨ln, pin, hln, hl⟩ => ?_⟩
    obtain ⟨label, ops⟩ := ln
    cases hl
    exact absurd hln (hno l pin ops)

theorem lt_length_of_line {p : Program} {k : Nat} {ln : Line} (h : p[k]? = some ln) : k < p.length :=
  (List.getElem?_eq_some_iff.mp h).1

/-- The line a label names comes from the first line that carries it. -/
theorem owner_eq_some_iff {p : Program} {l : Label} {j : Nat} : owner p l = some j ↔ ∃ k ln pin, p[k]? = some ln
    ∧ ln.label = some (l, pin) ∧ (∀ k' ln' pin', k' < k → p[k']? = some ln' → ln'.label ≠ some (l, pin'))
    ∧ nextBearing p k = some j := by
  simp only [owner, Option.bind_eq_some_iff, List.find?_range_eq_some, hasLabel_iff, Bool.not_eq_true', ← Bool.not_eq_true,
    List.mem_range]
  constructor
  · rintro ⟨k, ⟨⟨ln, pin, hln, hl⟩, -, hfirst⟩, hnext⟩
    exact ⟨k, ln, pin, hln, hl, fun k' ln' pin' hk' hln' hl' => hfirst k' hk' ⟨ln', pin', hln', hl'⟩, hnext⟩
  · rintro ⟨k, ln, pin, hln, hl, hfirst, hnext⟩
    exact ⟨k, ⟨⟨ln, pin, hln, hl⟩, lt_length_of_line hln, fun k' hk' ⟨ln', pin', hln', hl'⟩ => hfirst k' ln' pin' hk' hln' hl'⟩,
      hnext⟩

/-- Settles O47: the searches over the lines find the first index that passes. -/
theorem aLabelNamesTheFirstInstructionBearingLine : Obligations.ALabelNamesTheFirstInstructionBearingLine :=
  fun _ => ⟨fun _ => bearing_iff, fun _ _ h => opsAt_of_line h, fun _ _ => nextBearing_eq_some_iff, fun _ _ => owner_eq_some_iff⟩

theorem bearing_of_owner {p : Program} {l : Label} {j : Nat} (h : owner p l = some j) : bearing p j = true := by
  obtain ⟨k, _, _, -, -, -, hnext⟩ := owner_eq_some_iff.mp h
  exact (nextBearing_eq_some_iff.mp hnext).2.1

theorem labelAt_of_line {p : Program} {i : Nat} {ln : Line} {l : Label} {pin : Option Nat} (h : p[i]? = some ln)
    (hl : ln.label = some (l, pin)) : labelAt p i = some l := by
  simp only [labelAt, h, hl, Option.map_some]

theorem pinAt_of_line {p : Program} {i : Nat} {ln : Line} {l : Label} {pin : Option Nat} (h : p[i]? = some ln)
    (hl : ln.label = some (l, pin)) : pinAt p i = pin := by
  obtain ⟨label, ops⟩ := ln
  cases hl
  simp only [pinAt, h]

/-- A pin stands on a line with a label. -/
theorem line_of_pinAt {p : Program} {i a : Nat} (h : pinAt p i = some a) :
    ∃ ln l, p[i]? = some ln ∧ ln.label = some (l, some a) := by
  unfold pinAt at h
  split at h
  · next l pin ops hln => exact ⟨_, l, hln, by rw [h]⟩
  · cases h

/-- The labels a goto or a conditional refers to (R275, R276). -/
theorem refers_iff {ops : List Operation} {l : Label} : (Operation.goto l ∈ ops ∨ (∃ c t, Operation.condIf c t l ∈ ops)
    ∨ ∃ c f, Operation.condIf c l f ∈ ops) ↔ ∃ o ∈ ops, l ∈ o.labels := by
  constructor
  · rintro (h | ⟨c, t, h⟩ | ⟨c, f, h⟩)
    · exact ⟨_, h, by simp [Operation.labels]⟩
    · exact ⟨_, h, by simp [Operation.labels]⟩
    · exact ⟨_, h, by simp [Operation.labels]⟩
  · rintro ⟨o, ho, hl⟩
    cases o with
    | goto l' =>
      obtain rfl : l = l' := by simpa [Operation.labels] using hl
      exact .inl ho
    | condIf c t f =>
      obtain rfl | rfl : l = t ∨ l = f := by simpa [Operation.labels] using hl
      · exact .inr (.inr ⟨c, f, ho⟩)
      · exact .inr (.inl ⟨c, t, ho⟩)
    | _ => cases hl

-- ## What is reported (R261, R314)

/-- A placed program with anything to report gives no image and reports it. -/
theorem assemble_reports {p : Program} {pl : Placement} (hpl : placeProgram p = .ok pl) {d : Diagnostic}
    (hd : d ∈ pl.warnings ++ unboundLabels p ++ (bearingLines p).flatMap (lineDiagnostics p pl)) :
    ∃ ds, assemble p = .error (.warnings ds) ∧ d ∈ ds := by
  refine ⟨_, ?_, hd⟩
  simp only [assemble, hpl, if_neg (List.ne_nil_of_mem hd)]

theorem mem_bearingLines {p : Program} {i : Nat} : i ∈ bearingLines p ↔ bearing p i = true := by
  rw [bearingLines, List.mem_filter, List.mem_range]
  exact and_iff_right_of_imp lt_length_of_bearing

theorem unboundReference_mem {p : Program} {i : Nat} {o : Operation} {l : Label} (ho : o ∈ opsAt p i) (hl : l ∈ o.labels)
    (hnone : owner p l = none) : ⟨i, .undefinedSymbol l⟩ ∈ unboundReferences p i :=
  List.mem_map.mpr ⟨l, List.mem_filter.mpr ⟨List.mem_flatMap.mpr ⟨o, ho, hl⟩, by rw [hnone]; rfl⟩, rfl⟩

theorem unboundLabel_mem {p : Program} {i : Nat} {ln : Line} {l : Label} {pin : Option Nat} (h : p[i]? = some ln)
    (hl : ln.label = some (l, pin)) (hnone : nextBearing p i = none) : ⟨i, .undefinedSymbol l⟩ ∈ unboundLabels p :=
  List.mem_filterMap.mpr ⟨i, List.mem_range.mpr (lt_length_of_line h), by rw [hnone, labelAt_of_line h hl]; rfl⟩

/-- Settles O50: both kinds of unbound label are among the program's diagnostics, all of which are reported. -/
theorem everyUnboundLabelIsReported : Obligations.EveryUnboundLabelIsReported := by
  intro p pl hpl i ln hln l
  refine ⟨fun hrefers hnone => ?_, fun pin hl hnone => ?_⟩
  · obtain ⟨o, ho, hl⟩ := refers_iff.mp hrefers
    rw [← opsAt_of_line hln] at ho
    have hmem := unboundReference_mem ho hl hnone
    refine assemble_reports hpl (List.mem_append_right _ (List.mem_flatMap.mpr ⟨i, ?_, ?_⟩))
    · exact mem_bearingLines.mpr (bearing_of_mem_opsAt ho)
    · exact List.mem_append_left _ (List.mem_append_right _ hmem)
  · exact assemble_reports hpl (List.mem_append_left _ (List.mem_append_right _ (unboundLabel_mem hln hl hnone)))

-- ## The pins (R311)

/-- A pinned label's line, where the absolute pass does not warn: its pin is in the store and no earlier line's, and the line it
names, if there is one, lies at the pin. -/
theorem absoluteStep_of_pin {p : Program} {pl : Placement} {i a : Nat} (hpin : pinAt p i = some a)
    (hw : (absoluteStep p pl i).warnings = []) : a < 512 ∧ (∀ j, j < i → pinAt p j ≠ some a)
      ∧ ∀ j, nextBearing p i = some j → (absoluteStep p pl i).slotOf j = some a := by
  have hno := fun v => pl.warn_warnings_ne_nil i v
  simp only [absoluteStep, hpin] at hw ⊢
  split at hw
  · exact absurd hw (hno _)
  · next hlt =>
    split at hw
    · exact absurd hw (hno _)
    · next htwice =>
      refine ⟨by omega, fun j hj hsame => ?_, fun j hj => ?_⟩
      · exact htwice (List.any_eq_true.mpr ⟨j, List.mem_range.mpr hj, decide_eq_true hsame⟩)
      · simp only [hj] at hw ⊢
        rw [if_neg hlt, if_neg htwice]
        split at hw
        · exact absurd hw (hno _)
        · next hfree =>
          rw [if_neg hfree]
          exact pl.slotOf_place_self j a

/-- A pass of steps that extend the placement extends it, and it extends what each line's step gives. -/
theorem foldl_extends {step : Placement → Nat → Placement} (hstep : ∀ (pl : Placement) i, pl.Extends (step pl i)) (is : List Nat)
    (pl : Placement) : pl.Extends (is.foldl step pl) ∧ ∀ i ∈ is, ∃ q, (step q i).Extends (is.foldl step pl) := by
  induction is generalizing pl with
  | nil => exact ⟨.refl pl, nofun⟩
  | cons i is ih =>
    obtain ⟨hrest, hmem⟩ := ih (step pl i)
    refine ⟨(hstep pl i).trans hrest, fun j hj => ?_⟩
    rcases List.mem_cons.mp hj with rfl | hj
    · exact ⟨pl, hrest⟩
    · exact hmem j hj

theorem absolutePass_extends {p : Program} {pl : Placement} (h : placeProgram p = .ok pl) : (absolutePass p).Extends pl := by
  obtain ⟨q, hpaired, hremaining⟩ := placeProgram_ok h
  exact (pass_extends pairedStep_extends hpaired).1.trans (pass_extends remainingStep_extends hremaining).1

/-- In a program placed without a warning, a pin is in the store, stands on no other line, and the line its label names lies
there. -/
theorem pinned_of_placed {p : Program} {pl : Placement} (h : placeProgram p = .ok pl) (hw : pl.warnings = []) {i a : Nat}
    (hpin : pinAt p i = some a) : a < 512 ∧ (∀ j, j < i → pinAt p j ≠ some a)
      ∧ ∀ j, nextBearing p i = some j → pl.slotOf j = some a := by
  obtain ⟨ln, l, hln, -⟩ := line_of_pinAt hpin
  obtain ⟨q, hq⟩ := (foldl_extends (absoluteStep_extends p) (List.range p.length) Placement.empty).2 i
    (List.mem_range.mpr (lt_length_of_line hln))
  have hext : (absoluteStep p q i).Extends pl := hq.trans (absolutePass_extends h)
  obtain ⟨hlt, htwice, hslot⟩ := absoluteStep_of_pin hpin (hext.warnings hw)
  exact ⟨hlt, htwice, fun j hj => hext.slotOf (hslot j hj)⟩

/-- No two lines have one pin. -/
theorem pin_unique {p : Program} {pl : Placement} (h : placeProgram p = .ok pl) (hw : pl.warnings = []) {i i' a : Nat}
    (hpin : pinAt p i = some a) (hpin' : pinAt p i' = some a) : i' = i := by
  rcases Nat.lt_trichotomy i' i with hlt | heq | hlt
  · exact absurd hpin' ((pinned_of_placed h hw hpin).2.1 i' hlt)
  · exact heq
  · exact absurd hpin ((pinned_of_placed h hw hpin').2.1 i hlt)

-- ## Programs that assemble

theorem lineViolations_eq_nil_of_diagnostics {p : Program} {pl : Placement} {i : Nat} (h : lineDiagnostics p pl i = []) :
    lineViolations (opsAt p i) = [] :=
  List.map_eq_nil_iff.mp (List.append_eq_nil_iff.mp (List.append_eq_nil_iff.mp h).1).1

theorem legalLine_nil : LegalLine [] := (lineViolations_eq_nil_iff_legal []).mp rfl

/-- Every line of a program without diagnostics is legal; one without operations is so by itself. -/
theorem legalLine_of_diagnostics {p : Program} {pl : Placement} (hd : ∀ i ∈ bearingLines p, lineDiagnostics p pl i = [])
    (i : Nat) : LegalLine (opsAt p i) := by
  by_cases hops : opsAt p i = []
  · exact hops ▸ legalLine_nil
  · obtain ⟨o, ho⟩ := List.exists_mem_of_ne_nil _ hops
    exact (lineViolations_eq_nil_iff_legal _).mp
      (lineViolations_eq_nil_of_diagnostics (hd i (mem_bearingLines.mpr (bearing_of_mem_opsAt ho))))

theorem owner_of_diagnostics {p : Program} {pl : Placement} (hd : ∀ i ∈ bearingLines p, lineDiagnostics p pl i = []) {i : Nat}
    {o : Operation} {l : Label} (ho : o ∈ opsAt p i) (hl : l ∈ o.labels) : ∃ j, owner p l = some j :=
  owner_of_reference (unboundReferences_eq_nil (hd i (mem_bearingLines.mpr (bearing_of_mem_opsAt ho)))) ho hl

/-- Settles O49: a program that assembles has no unbound label, no diagnostic of a line and no warning of the absolute pass. -/
theorem noImageWithAnUnboundLabelABadPinOrAnIllegalLine :
    Obligations.NoImageWithAnUnboundLabelABadPinOrAnIllegalLine := by
  intro p img h
  obtain ⟨pl, _, hpl, hw, hunbound, hd, -, -⟩ := assemble_ok h
  refine ⟨fun i ln l pin hln hl => nextBearing_of_labelAt hunbound (labelAt_of_line hln hl), fun i ln l hln hrefers => ?_,
    fun i ln l a hln hl => ?_, fun i ln hln => opsAt_of_line hln ▸ legalLine_of_diagnostics hd i⟩
  · obtain ⟨o, ho, hl⟩ := refers_iff.mp hrefers
    exact owner_of_diagnostics hd (opsAt_of_line hln ▸ ho) hl
  · have hpin := pinAt_of_line hln hl
    exact ⟨hpin, (pinned_of_placed hpl hw hpin).1, fun i' ln' l' hln' hl' => pin_unique hpl hw hpin (pinAt_of_line hln' hl')⟩

-- ## The built store (R314, R317)

/-- One line written into its slot. -/
def storeLine (p : Program) (pl : Placement) (cs : ControlStore) (i : Nat) : ControlStore :=
  match pl.slotOf i with
  | some a => Store.write cs a (finishedWord p pl i)
  | none => cs

theorem buildStore_eq_foldl (p : Program) (pl : Placement) : buildStore p pl = (bearingLines p).foldl (storeLine p pl) [] := rfl

theorem read_storeLine (p : Program) (pl : Placement) {cs : ControlStore} (hw : Store.wf cs = true) (i a : Nat) :
    Store.read (storeLine p pl cs i) a = if pl.slotOf i = some a then finishedWord p pl i else Store.read cs a := by
  unfold storeLine
  cases h : pl.slotOf i with
  | none => simp
  | some b => simp [Store.read_write b _ hw, eq_comm]

theorem storeLine_wf (p : Program) {pl : Placement} (hs : pl.Sound) {cs : ControlStore}
    (h : Store.wf cs = true ∧ Store.below 512 cs = true) (i : Nat) :
    Store.wf (storeLine p pl cs i) = true ∧ Store.below 512 (storeLine p pl cs i) = true := by
  unfold storeLine
  cases hi : pl.slotOf i with
  | none => exact h
  | some a => exact ⟨Store.write_wf a _ h.1, Store.write_below _ h.2 (hs.lt hi)⟩

theorem buildStore_wf (p : Program) {pl : Placement} (hs : pl.Sound) :
    Store.wf (buildStore p pl) = true ∧ Store.below 512 (buildStore p pl) = true := by
  rw [buildStore_eq_foldl]
  exact List.foldlRecOn (motive := fun cs => Store.wf cs = true ∧ Store.below 512 cs = true) _ _ ⟨rfl, rfl⟩
    fun _ h i _ => storeLine_wf p hs h i

/-- After lines are written, each one's slot holds its word, since no two share a slot, and a slot of none is as it was. -/
theorem read_foldl_storeLine (p : Program) {pl : Placement} (hs : pl.Sound) (is : List Nat) {cs : ControlStore}
    (h : Store.wf cs = true ∧ Store.below 512 cs = true) (a : Nat) :
    (∀ i ∈ is, pl.slotOf i = some a → Store.read (is.foldl (storeLine p pl) cs) a = finishedWord p pl i)
      ∧ ((∀ i ∈ is, pl.slotOf i ≠ some a) → Store.read (is.foldl (storeLine p pl) cs) a = Store.read cs a) := by
  induction is generalizing cs with
  | nil => exact ⟨nofun, fun _ => rfl⟩
  | cons i is ih =>
    obtain ⟨hmem, hother⟩ := ih (storeLine_wf p hs h i)
    refine ⟨fun j hj hslot => ?_, fun hno => ?_⟩
    · by_cases hin : ∃ k ∈ is, pl.slotOf k = some a
      · obtain ⟨k, hk, hkslot⟩ := hin
        rw [hs.inj hslot hkslot]
        exact hmem k hk hkslot
      · have hlater : ∀ k ∈ is, pl.slotOf k ≠ some a := fun k hk hkslot => hin ⟨k, hk, hkslot⟩
        obtain rfl : j = i := (List.mem_cons.mp hj).resolve_right fun hj => hlater j hj hslot
        rw [List.foldl_cons, hother hlater, read_storeLine p pl h.1, if_pos hslot]
    · rw [List.foldl_cons, hother fun k hk => hno k (List.mem_cons_of_mem i hk), read_storeLine p pl h.1,
        if_neg (hno i List.mem_cons_self)]

theorem read_buildStore_of_bearing {p : Program} {pl : Placement} (hs : pl.Sound) {i a : Nat} (hb : bearing p i = true)
    (hslot : pl.slotOf i = some a) : Store.read (buildStore p pl) a = finishedWord p pl i := by
  rw [buildStore_eq_foldl]
  exact (read_foldl_storeLine p hs (bearingLines p) ⟨rfl, rfl⟩ a).1 i (mem_bearingLines.mpr hb) hslot

theorem read_buildStore_of_empty {p : Program} {pl : Placement} (hs : pl.Sound) {a : Nat}
    (h : ∀ i, bearing p i = true → pl.slotOf i ≠ some a) : Store.read (buildStore p pl) a = 0#40 := by
  rw [buildStore_eq_foldl]
  exact (read_foldl_storeLine p hs (bearingLines p) ⟨rfl, rfl⟩ a).2 fun i hi => h i (mem_bearingLines.mp hi)

-- ## The finished words (R275 to R279, R314)

theorem finishedWord_eq {p : Program} {pl : Placement} {i : Nat} {x : Option Nat} (h : successorAt p pl i = .ok x) :
    finishedWord p pl i = addressedWord (opsAt p i) x := by
  simp only [finishedWord, h]

theorem successorAt_of_diagnostics {p : Program} {pl : Placement} {i : Nat} (h : lineDiagnostics p pl i = []) :
    ∃ x, successorAt p pl i = .ok x := by
  have hlast := (List.append_eq_nil_iff.mp h).2
  cases hs : successorAt p pl i with
  | ok x => exact ⟨x, rfl⟩
  | error v => simp [hs] at hlast

/-- A legal line's one transfer is the one found (R264). -/
theorem transferAt_eq {p : Program} {i : Nat} (h : LegalLine (opsAt p i)) {o : Operation} (ho : o ∈ opsAt p i)
    (htransfers : transfers o) : transferAt p i = some o := by
  cases hfound : transferAt p i with
  | none => exact absurd ((isTransfer_iff o).mpr htransfers) (List.find?_eq_none.mp hfound o ho)
  | some o' =>
    rw [eq_of_transfers h (List.mem_of_find?_eq_some hfound) ho ((isTransfer_iff o').mp (List.find?_some hfound)) htransfers]

theorem transferAt_eq_none {p : Program} {i : Nat} (h : ∀ o ∈ opsAt p i, ¬ transfers o) : transferAt p i = none :=
  List.find?_eq_none.mpr fun o ho => (isTransfer_iff o).not.mpr (h o ho)

/-- The address field of a line whose transfer is no halt and no indirect goto is the slot it goes to. -/
theorem field_finishedWord {p : Program} {pl : Placement} (hs : pl.Sound) {i j a : Nat} (hslot : pl.slotOf j = some a)
    (hsucc : successorAt p pl i = .ok (pl.slotOf j)) (hhalt : .halt ∉ opsAt p i)
    (hindirect : ∀ c, .indirectGoto c ∉ opsAt p i) : pl.slotOf j = some (field (finishedWord p pl i) 27 9) := by
  rw [finishedWord_eq hsucc, hslot, field_addr_of_successor hhalt hindirect (hs.lt hslot)]

/-- Beside a goto or a conditional a legal line has no halt and no indirect goto. -/
theorem no_other_transfer {ops : List Operation} (h : LegalLine ops) {o : Operation} (ho : o ∈ ops) (htransfers : transfers o)
    (hne : o ≠ .halt) (hne' : ∀ c, o ≠ .indirectGoto c) : .halt ∉ ops ∧ ∀ c, .indirectGoto c ∉ ops :=
  ⟨fun hhalt => hne (eq_of_transfers h ho hhalt htransfers (.inr (.inr (.inr rfl)))),
    fun c hc => hne' c (eq_of_transfers h ho hc htransfers (.inr (.inl ⟨c, rfl⟩)))⟩

/-- The encoder gives each line its finished word. -/
theorem encodeLine_finishedWord {p : Program} {pl : Placement} (hd : ∀ i ∈ bearingLines p, lineDiagnostics p pl i = [])
    {i : Nat} (hb : bearing p i = true) :
    ∃ x, encodeLine (opsAt p i) x = .ok (some (finishedWord p pl i)) := by
  have hdiag := hd i (mem_bearingLines.mpr hb)
  obtain ⟨x, hx⟩ := successorAt_of_diagnostics hdiag
  obtain ⟨ln, hln, hops⟩ := bearing_iff.mp hb
  exact ⟨x, encodeLine_word.mpr ⟨lineViolations_eq_nil_of_diagnostics hdiag, opsAt_of_line hln ▸ hops, finishedWord_eq hx⟩⟩

section Assembled

variable {p : Program} {pl : Placement} (hpl : placeProgram p = .ok pl)
  (hd : ∀ i ∈ bearingLines p, lineDiagnostics p pl i = [])

include hpl hd

/-- The address field of a line that goes to a label: the slot of the label's line. -/
theorem address_of_label {i : Nat} {o : Operation} {l : Label} (ho : o ∈ opsAt p i) (hl : l ∈ o.labels)
    (htransfers : transfers o) (hne : o ≠ .halt) (hne' : ∀ c, o ≠ .indirectGoto c)
    (hsucc : ∀ j, owner p l = some j → transferAt p i = some o → successorAt p pl i = .ok (pl.slotOf j)) :
    ∃ j, owner p l = some j ∧ pl.slotOf j = some (field (finishedWord p pl i) 27 9) := by
  have hlegal := legalLine_of_diagnostics hd i
  obtain ⟨j, hj⟩ := owner_of_diagnostics hd ho hl
  obtain ⟨a, ha⟩ := placeProgram_places hpl (bearing_of_owner hj)
  obtain ⟨hhalt, hindirect⟩ := no_other_transfer hlegal ho htransfers hne hne'
  exact ⟨j, hj, field_finishedWord (placeProgram_sound hpl) ha (hsucc j hj (transferAt_eq hlegal ho htransfers)) hhalt hindirect⟩

theorem address_of_goto {i : Nat} {l : Label} (ho : .goto l ∈ opsAt p i) :
    ∃ j, owner p l = some j ∧ pl.slotOf j = some (field (finishedWord p pl i) 27 9) := by
  refine address_of_label hpl hd ho (by simp [Operation.labels]) (.inl ⟨l, rfl⟩) nofun nofun fun j hj htransfer => ?_
  simp only [successorAt, htransfer, hj, Option.bind_some]

theorem address_of_condIf {i : Nat} {c : Cond} {t f : Label} (ho : .condIf c t f ∈ opsAt p i) :
    ∃ j, owner p f = some j ∧ pl.slotOf j = some (field (finishedWord p pl i) 27 9) := by
  refine address_of_label hpl hd ho (by simp [Operation.labels]) (.inr (.inr (.inl ⟨c, t, f, rfl⟩))) nofun nofun
    fun j hj htransfer => ?_
  simp only [successorAt, htransfer, hj, Option.bind_some]

/-- The address field of a line without a transfer: the slot of the next instruction-bearing line. -/
theorem address_of_fallThrough {i : Nat} (hb : bearing p i = true) (hno : ∀ o ∈ opsAt p i, ¬ transfers o) :
    ∃ j, nextBearing p (i + 1) = some j ∧ pl.slotOf j = some (field (finishedWord p pl i) 27 9) := by
  obtain ⟨x, hx⟩ := successorAt_of_diagnostics (hd i (mem_bearingLines.mpr hb))
  have hsucc := hx
  simp only [successorAt, transferAt_eq_none hno] at hsucc
  cases hnext : (nextBearing p (i + 1)).bind pl.slotOf with
  | none => simp [hnext] at hsucc
  | some a =>
    obtain ⟨j, hj, ha⟩ := Option.bind_eq_some_iff.mp hnext
    simp only [hnext, Except.ok.injEq] at hsucc
    refine ⟨j, hj, field_finishedWord (placeProgram_sound hpl) ha ?_ ?_ ?_⟩
    · rw [hx, ← hsucc, ha]
    · exact fun hhalt => hno _ hhalt (.inr (.inr (.inr rfl)))
    · exact fun c hc => hno _ hc (.inr (.inl ⟨c, rfl⟩))

end Assembled

/-- Settles O42: the store is written line by line into distinct slots, and a line without a diagnostic has its successor's
address in its word. -/
theorem anAssembledStoreHoldsTheFinishedWords : Obligations.AnAssembledStoreHoldsTheFinishedWords := by
  intro p img h
  obtain ⟨pl, e, hpl, hw, hunbound, hd, hentry, rfl⟩ := assemble_ok h
  have hs := placeProgram_sound hpl
  refine ⟨pl, hpl, (buildStore_wf p hs).1, (buildStore_wf p hs).2, fun i hb => ?lines, fun i a hpin => ?pins,
    fun a hempty => read_buildStore_of_empty hs hempty, ?entry⟩
  case lines =>
    obtain ⟨a, ha⟩ := placeProgram_places hpl hb
    obtain ⟨x, hx⟩ := encodeLine_finishedWord hd hb
    exact ⟨a, _, x, ha, read_buildStore_of_bearing hs hb ha, hx, fun l ho => address_of_goto hpl hd ho,
      fun c t f ho => address_of_condIf hpl hd ho, address_of_fallThrough hpl hd hb⟩
  case pins =>
    obtain ⟨hlt, -, hslot⟩ := pinned_of_placed hpl hw hpin
    obtain ⟨ln, l, hln, hl⟩ := line_of_pinAt hpin
    obtain ⟨j, hj⟩ := nextBearing_of_labelAt hunbound (labelAt_of_line hln hl)
    exact ⟨hlt, j, hj, hslot j hj⟩
  case entry =>
    obtain ⟨i, hi, hslot⟩ := Option.bind_eq_some_iff.mp hentry
    refine ⟨i, hi, hslot.trans (congrArg some ?_)⟩
    exact (Nat.mod_eq_of_lt (hs.lt hslot)).symm

end Sys2Proof
end
